-- ==== Sys2Proof/Word.lean ====
section
/-! DEFINITION. The word types of the block: bytes of the buses and buffers, the 32-bit command word and
response value (R102, R106), the 16-bit USB-PD header (R11, R112). -/

namespace Sys2Proof

/-- One byte of a bus, a buffer or a chip register (R60). -/
abbrev Byte := BitVec 8

/-- A command word, a response value or a millisecond value (R102, R106, R11). -/
abbrev Word := BitVec 32

/-- A USB-PD message header (R11, R112). -/
abbrev Header := BitVec 16

end Sys2Proof
end

