-- ==== Sys2Proof/Config.lean ====
section
/-! DEFINITION. The implementation parameters of R10 that are sizes and times, and the free values: constants
with no body, so that nothing can be proved of what they are. The parameters that are chip addresses, register
values and token bytes stand in Machine/Chip.lean (log 12). -/

namespace Sys2Proof.Config

/-- `QUEUE_DEPTH` of R10: the event queue holds six events. -/
def queueDepth : Nat := 6

/-- `RX_SLOTS` of R10 (the 2-bit slot field of D36 fixes it for this encoding). -/
def rxSlots : Nat := 4

/-- `RX_SLOT_BYTES` of R10. -/
def rxSlotBytes : Nat := 64

/-- `TX_BUF_BYTES` of R10. -/
def txBufBytes : Nat := 40

/-- `MAX_DATA_OBJS` of R10. -/
def maxDataObjs : Nat := 7

/-- `N_RETRIES` of R10, the automatic retries that CONTROL3 asks for (R64). -/
def nRetries : Nat := 3

/-- `TX_PAYLOAD_BYTES` of R10: the width of the payload port in bytes (R105). -/
def txPayloadBytes : Nat := 28

/-- `MEAS_TIMEOUT_MS` of R10. -/
def measTimeoutMs : Word := 10#32

/-- `PDWAIT_TIMEOUT_MS` of R10. -/
def pdWaitTimeoutMs : Word := 300#32

/-- `RETRY_WAIT_MS` of R10. -/
def retryWaitMs : Word := 500#32

/-- `RESET_DELAY_MS` of R10. -/
def resetDelayMs : Word := 10#32

/-- `EXPIRY_WINDOW` of R10, 2^27 (C5). -/
def expiryWindow : Word := 0x08000000#32

/-- `DEFAULT_SPEC_REV` of R10: the revision of the pseudo-instruction `send_header_message(t)` (R127). -/
def defaultSpecRev : BitVec 2 := 2#2

/-- `MT_GOODCRC` of R10 and R114 (log 12). -/
def mtGoodCrc : BitVec 5 := 0x01#5

/-- FREE VALUE (log 1): the byte the chip returns on its n-th byte read once `chipIn` lists no more (R24). -/
opaque freeChipByte : Nat → Byte

/-- FREE VALUE (log 1): the n-th sample of the millisecond counter once `millisIn` lists no more (R24). -/
opaque freeMillis : Nat → Word

/-- FREE VALUE (log 1): whether INT_N is low at the n-th sample once `intNIn` lists no more (R24). -/
opaque freeIntNLow : Nat → Bool

/-- FREE VALUE (log 1): whether the target acknowledges the n-th byte once `ackIn` lists no more (R330). -/
opaque freeAck : Nat → Bool

/-- FREE VALUE (log 11): what a byte of `rx_ring` holds from power-on until it is written (R48, U10). -/
opaque powerOnRingByte : Nat → Byte

/-- FREE VALUE (log 11): what a byte of `tx_buf` holds from power-on until it is written (R48, U10). -/
opaque powerOnTxByte : Nat → Byte

/-- FREE VALUE (log 4): how far past the listed chip bytes a drain is followed before it is called endless.
The block has no bound of its own (R234), so no claim may rest on the value. -/
opaque drainPatience : Nat

end Sys2Proof.Config
end

