-- ==== Sys2Proof/Machine/Chip.lean ====
section
/-! DEFINITION. The parameters that belong to the FUSB302B: its I2C address (R321), the register addresses (R61),
the bit positions (R62) and values (R64) the block writes, the TX tokens (R120). All are the spec's defaults, which
it takes from general knowledge and keeps as parameters (U19, log 12). -/

namespace Sys2Proof.Machine

/-- `I2C_ADDR`, 7 bits (R321). -/
def i2cAddr : BitVec 7 := 0x22#7

/-- The address byte of a write: the 7-bit address above direction bit 0 (R321, R340). -/
def addrWrite : Byte := i2cAddr ++ 0#1

/-- The address byte of a read: direction bit 1 (R321, R340). -/
def addrRead : Byte := i2cAddr ++ 1#1

/-! Register addresses, R61. -/

def regDeviceId : Byte := 0x01#8
def regSwitches0 : Byte := 0x02#8
def regSwitches1 : Byte := 0x03#8
def regControl0 : Byte := 0x06#8
def regControl1 : Byte := 0x07#8
def regControl3 : Byte := 0x09#8
def regMask : Byte := 0x0A#8
def regPower : Byte := 0x0B#8
def regReset : Byte := 0x0C#8
def regMaska : Byte := 0x0E#8
def regMaskb : Byte := 0x0F#8
def regInterrupta : Byte := 0x3E#8
def regInterruptb : Byte := 0x3F#8
def regStatus0 : Byte := 0x40#8
def regStatus1 : Byte := 0x41#8
def regInterrupt : Byte := 0x42#8
def regFifos : Byte := 0x43#8

/-! Bit positions of the registers the block writes, R62: parameters with the spec's defaults (U19, log 12). A field of two
bits is named by its lower one. -/

/-! SWITCHES0. -/

def bitSw0PuEn2 : Nat := 7
def bitSw0PuEn1 : Nat := 6
def bitSw0VconnCc2 : Nat := 5
def bitSw0VconnCc1 : Nat := 4
def bitSw0MeasCc2 : Nat := 3
def bitSw0MeasCc1 : Nat := 2
def bitSw0Pdwn2 : Nat := 1
def bitSw0Pdwn1 : Nat := 0

/-! SWITCHES1. SPECREV is two bits, [6:5]. -/

def bitSw1PowerRole : Nat := 7
def bitSw1SpecRev : Nat := 5
def bitSw1DataRole : Nat := 4
def bitSw1AutoCrc : Nat := 2
def bitSw1TxCc2 : Nat := 1
def bitSw1TxCc1 : Nat := 0

/-! CONTROL0. HOST_CUR is two bits, [3:2]. -/

def bitCtrl0TxFlush : Nat := 6
def bitCtrl0IntMask : Nat := 5
def bitCtrl0HostCur : Nat := 2
def bitCtrl0AutoPre : Nat := 1
def bitCtrl0TxStart : Nat := 0

/-! CONTROL1. -/

def bitCtrl1EnSop2Db : Nat := 6
def bitCtrl1EnSop1Db : Nat := 5
def bitCtrl1BistMode2 : Nat := 4
def bitCtrl1RxFlush : Nat := 2
def bitCtrl1EnSop2 : Nat := 1
def bitCtrl1EnSop1 : Nat := 0

/-! CONTROL3. N_RETRIES is two bits, [2:1]. -/

def bitCtrl3SendHardReset : Nat := 6
def bitCtrl3BistTMode : Nat := 5
def bitCtrl3AutoHardReset : Nat := 4
def bitCtrl3AutoSoftReset : Nat := 3
def bitCtrl3NRetries : Nat := 1
def bitCtrl3AutoRetry : Nat := 0

/-! MASK. 1 masks. -/

def bitMaskVbusOk : Nat := 7
def bitMaskActivity : Nat := 6
def bitMaskCompChng : Nat := 5
def bitMaskCrcChk : Nat := 4
def bitMaskAlert : Nat := 3
def bitMaskWake : Nat := 2
def bitMaskCollision : Nat := 1
def bitMaskBcLvl : Nat := 0

/-! POWER. PWR3 to PWR0. -/

def bitPowerOsc : Nat := 3
def bitPowerMeasure : Nat := 2
def bitPowerReceiver : Nat := 1
def bitPowerBandgap : Nat := 0

/-! RESET. Both clear themselves. -/

def bitResetPdReset : Nat := 1
def bitResetSwRes : Nat := 0

/-! MASKA. 1 masks. -/

def bitMaskaOcpTemp : Nat := 7
def bitMaskaTogDone : Nat := 6
def bitMaskaSoftFail : Nat := 5
def bitMaskaRetryFail : Nat := 4
def bitMaskaHardSent : Nat := 3
def bitMaskaTxSent : Nat := 2
def bitMaskaSoftRst : Nat := 1
def bitMaskaHardRst : Nat := 0

/-! MASKB. 1 masks. -/

def bitMaskbGcrcSent : Nat := 0

/-- The byte with these bits set. -/
def setBits (positions : List Nat) : Byte := positions.foldr (fun p v => v ||| 1#8 <<< p) 0#8

/-- A value in the field that begins at a position. -/
def inField (low value : Nat) : Byte := BitVec.ofNat 8 value <<< low

/-! Register values the rules write, R64, from the positions of R62. -/

/-- `V_RESET_ALL`: SW_RES and PD_RESET. -/
def vResetAll : Byte := setBits [bitResetSwRes, bitResetPdReset]
/-- `V_POWER_NO_OSC`: bandgap, receiver and measure block, oscillator off. -/
def vPowerNoOsc : Byte := setBits [bitPowerBandgap, bitPowerReceiver, bitPowerMeasure]
/-- `V_POWER_ALL`: all four power bits. -/
def vPowerAll : Byte := setBits [bitPowerBandgap, bitPowerReceiver, bitPowerMeasure, bitPowerOsc]
/-- `V_MASK_ALL`: every MASK bit. -/
def vMaskAll : Byte := setBits [bitMaskVbusOk, bitMaskActivity, bitMaskCompChng, bitMaskCrcChk, bitMaskAlert, bitMaskWake,
  bitMaskCollision, bitMaskBcLvl]
/-- `V_MASKA_ALL`: every MASKA bit. -/
def vMaskaAll : Byte := setBits [bitMaskaOcpTemp, bitMaskaTogDone, bitMaskaSoftFail, bitMaskaRetryFail, bitMaskaHardSent,
  bitMaskaTxSent, bitMaskaSoftRst, bitMaskaHardRst]
/-- `V_MASKB_ALL`: M_GCRCSENT. -/
def vMaskbAll : Byte := setBits [bitMaskbGcrcSent]
/-- `V_MASK_PD`: all but M_ACTIVITY and M_CRC_CHK. -/
def vMaskPd : Byte := vMaskAll &&& ~~~setBits [bitMaskActivity, bitMaskCrcChk]
/-- `V_MASKA_PD`: all but M_HARDRST, M_RETRYFAIL and M_TXSENT. -/
def vMaskaPd : Byte := vMaskaAll &&& ~~~setBits [bitMaskaHardRst, bitMaskaRetryFail, bitMaskaTxSent]
/-- `V_MASKB_PD`: M_GCRCSENT clear. -/
def vMaskbPd : Byte := vMaskbAll &&& ~~~setBits [bitMaskbGcrcSent]
/-- `V_SW0_MEAS(1)`: both pull-downs, measure CC1. -/
def vSw0MeasCc1 : Byte := setBits [bitSw0Pdwn1, bitSw0Pdwn2, bitSw0MeasCc1]
/-- `V_SW0_MEAS(2)`: both pull-downs, measure CC2. -/
def vSw0MeasCc2 : Byte := setBits [bitSw0Pdwn1, bitSw0Pdwn2, bitSw0MeasCc2]
/-- `V_SW1_PD(1)`: revision 2.0 (SPECREV = 01), auto-CRC, transmit on CC1; sink and UFP (both role bits clear, D14). -/
def vSw1PdCc1 : Byte := inField bitSw1SpecRev 1 ||| setBits [bitSw1AutoCrc, bitSw1TxCc1]
/-- `V_SW1_PD(2)`: the same, transmit on CC2. -/
def vSw1PdCc2 : Byte := inField bitSw1SpecRev 1 ||| setBits [bitSw1AutoCrc, bitSw1TxCc2]
/-- `V_CTRL3_PD`: automatic retry, `N_RETRIES` retries. -/
def vCtrl3Pd : Byte := inField bitCtrl3NRetries Config.nRetries ||| setBits [bitCtrl3AutoRetry]
/-- `V_CTRL0_PD`: no bit set, so the global interrupt mask INT_MASK is clear. -/
def vCtrl0Pd : Byte := setBits []
/-- `V_CTRL1_RXFLUSH`: RX_FLUSH alone. -/
def vCtrl1RxFlush : Byte := setBits [bitCtrl1RxFlush]

/-! TX tokens, R120. -/

def tokSop1Byte : Byte := 0x12#8
def tokSop2Byte : Byte := 0x13#8
/-- `TOK_PACKSYM`; its low five bits carry the count of the data bytes that follow. -/
def tokPacksymBase : Byte := 0x80#8
def tokJamCrcByte : Byte := 0xFF#8
def tokEopByte : Byte := 0x14#8
def tokTxoffByte : Byte := 0xFE#8
def tokTxonByte : Byte := 0xA1#8

/-- The PACKSYM byte with its count: `TOK_PACKSYM | len` (R121). -/
def packsymByte (len : BitVec 5) : Byte := tokPacksymBase ||| len.setWidth 8

/-- The RX token test of R124: `(token & 0xE0) = 0xE0`. -/
def isSopToken (token : Byte) : Bool := token &&& 0xE0#8 == 0xE0#8

end Sys2Proof.Machine
end

