-- ==== Sys2Proof/Syntax.lean ====
section
/-! DEFINITION. The instructions: one constructor per row of spec/opcode_table.json (20 host commands of R101,
seven TX tokens of R120, the RX token class of R124), and what is presented to the decoder. -/

namespace Sys2Proof

/-- A host command, a TX token or an SOP RX token. Operands have the widths of R103 and R104. -/
inductive Instr where
  /-- `INIT`, opcode 0x01, format N (R182). -/
  | init
  /-- `START_SINK`, opcode 0x02, format N (R190). -/
  | startSink
  /-- `POLL`, opcode 0x03, format N (R201). -/
  | poll
  /-- `SEND_MESSAGE`, opcode 0x04, format H; it also reads the payload port (R105, R250). -/
  | sendMessage (header : Header)
  /-- `SEND_HEADER_MESSAGE`, opcode 0x05, format T (R258). -/
  | sendHeaderMessage (type : BitVec 5) (rev : BitVec 2)
  /-- `HAS_EVENT`, opcode 0x06, format N (R146). -/
  | hasEvent
  /-- `POP_EVENT`, opcode 0x07, format N (R147). -/
  | popEvent
  /-- `GET_STATE`, opcode 0x08, format N (R207). -/
  | getState
  /-- `GET_DEVICE_ID`, opcode 0x09, format N (R208). -/
  | getDeviceId
  /-- `READ_RX_BYTE`, opcode 0x0A, format X (R150). -/
  | readRxByte (slot : BitVec 2) (offset : BitVec 6)
  /-- `EVENT_COUNT`, opcode 0x0B, format N (R148). -/
  | eventCount
  /-- `CREATE_CTRL`, opcode 0x10, format T (R161). -/
  | createCtrl (type : BitVec 5) (rev : BitVec 2)
  /-- `CREATE_DATA`, opcode 0x11, format D (R162). -/
  | createData (type : BitVec 5) (n : BitVec 3) (rev : BitVec 2)
  /-- `HDR_MESSAGE_TYPE`, opcode 0x12, format H (R166). -/
  | hdrMessageType (header : Header)
  /-- `HDR_NUM_DATA_OBJS`, opcode 0x13, format H (R165). -/
  | hdrNumDataObjs (header : Header)
  /-- `HDR_SPEC_REV`, opcode 0x14, format H (R167). -/
  | hdrSpecRev (header : Header)
  /-- `HDR_MESSAGE_ID`, opcode 0x15, format H (R168). -/
  | hdrMessageId (header : Header)
  /-- `HDR_EXTENDED`, opcode 0x16, format H (R169). -/
  | hdrExtended (header : Header)
  /-- `HDR_DATA_ROLE`, opcode 0x17, format H (R170). -/
  | hdrDataRole (header : Header)
  /-- `HDR_POWER_ROLE`, opcode 0x18, format H (R171). -/
  | hdrPowerRole (header : Header)
  /-- `TOK_SOP1`, Sync-1 of the SOP ordered set (R120). -/
  | tokSop1
  /-- `TOK_SOP2`, Sync-2 of the SOP ordered set (R120). -/
  | tokSop2
  /-- `TOK_PACKSYM`: `len` data bytes follow (R120, R121). -/
  | tokPacksym (len : BitVec 5)
  /-- `TOK_JAM_CRC`: the chip inserts the packet CRC here (R120). -/
  | tokJamCrc
  /-- `TOK_EOP`, end of packet (R120). -/
  | tokEop
  /-- `TOK_TXOFF`: the transmitter goes off after the packet (R120). -/
  | tokTxoff
  /-- `TOK_TXON`: transmission of the FIFO contents starts (R120). -/
  | tokTxon
  /-- `RX_TOKEN_SOP`: a frame token whose top three bits are 111; `low` is the five bits the block ignores (R124). -/
  | rxTokenSop (low : BitVec 5)
deriving DecidableEq, Repr

/-- What the decoder is given. The same bits mean different things on the command port, in the TX token stream
and at the head of an RX frame, so the three are decoded apart (log 8). -/
inductive Fetch where
  /-- A 32-bit word on the command port (R102). -/
  | command (w : Word)
  /-- A byte of the TX token stream (R120). -/
  | txToken (b : Byte)
  /-- The first byte of a frame of the RX FIFO (R124). -/
  | rxToken (b : Byte)
deriving DecidableEq, Repr

/-- True for the 20 host commands of R101, false for the token rows. -/
def Instr.isCommand : Instr → Bool
  | .init | .startSink | .poll | .sendMessage _ | .sendHeaderMessage _ _ | .hasEvent | .popEvent | .getState
  | .getDeviceId | .readRxByte _ _ | .eventCount | .createCtrl _ _ | .createData _ _ _ | .hdrMessageType _
  | .hdrNumDataObjs _ | .hdrSpecRev _ | .hdrMessageId _ | .hdrExtended _ | .hdrDataRole _ | .hdrPowerRole _ => true
  | .tokSop1 | .tokSop2 | .tokPacksym _ | .tokJamCrc | .tokEop | .tokTxoff | .tokTxon | .rxTokenSop _ => false

end Sys2Proof
end

