-- ==== Sys2Proof/Machine/State.lean ====
section
/-! DEFINITION. The block's state as plain data: the ten fields of R30, the outputs of the last step (R23), the
inputs waiting to be consumed (R24), and the model's own fields; the faults and refusals; the power-on state (R48). -/

namespace Sys2Proof.Machine

/-- The attach state (R31). -/
inductive AttachState where
  | usb20
  | usbPdWait
  | usbPd
  | usbRetryWait
deriving DecidableEq, Repr

/-- A CC line (R32). -/
inductive Cc where
  | cc1
  | cc2
deriving DecidableEq, Repr

/-- Whether the INT_N pin still serves its alternate function (R36). -/
inductive IntNMode where
  | alternate
  | input
deriving DecidableEq, Repr

/-- An entry of the event queue (R140). `generation` is the ghost counter of R151, carried with the event when it is
pushed; no command reads it (log 14). -/
inductive Event where
  | stateChanged
  | messageReceived (header : Header) (slot : BitVec 2) (generation : Nat)
deriving DecidableEq, Repr

/-- The response of a command (R106). -/
structure Response where
  status : BitVec 2
  value  : Word
deriving DecidableEq, Repr

/-- The direction of an I2C transaction (R361 records it). -/
inductive Direction where
  | read
  | write
deriving DecidableEq, Repr

/-- The conditions `raise` records in the trace (R361, codes 0x10 to 0x15). -/
inductive Condition where
  /-- 0x10: the target did not acknowledge a byte (R330, R362). -/
  | transientBusError (reg : Byte) (direction : Direction)
  /-- 0x11, `NotSop`: a frame token fails the SOP test (R223, R364). -/
  | notSop (token : Byte)
  /-- 0x11, `BadCrc`: STATUS0.CRC_CHK reads 0 after a frame (R227, R364). -/
  | badCrc (header : Header)
  /-- 0x12: the timer expired in `UsbPdWait` (R201, R363). -/
  | protocolTimeout
  /-- 0x13: INTERRUPTA.I_HARDRST is set (R220, R365). -/
  | chipHardReset
  /-- 0x14: a push into a full queue; the event is dropped (R141, R366). -/
  | queueOverflow (dropped : Event)
  /-- 0x15: INTERRUPTA.I_RETRYFAIL is set; no action (R221). -/
  | retryFail
deriving DecidableEq, Repr

/-- One entry of the ordered trace of a step: what the block did and which draws it consumed (R23). -/
inductive Act where
  /-- A write transaction; `acked` counts the acknowledged bytes, address and register bytes included (R325, R330). -/
  | write (reg : Byte) (bytes : List Byte) (acked : Nat)
  /-- A read transaction; `acked` counts the acknowledged bytes the master sent (R326, R330). -/
  | read (reg : Byte) (bytes : List Byte) (acked : Nat)
  /-- One pulse of INT_N_RELEASE (R36). -/
  | pulse
  /-- One INT_N sample; `low` is asserted (R15). -/
  | intN (low : Bool)
  /-- One `millis()` sample (R15). -/
  | millis (t : Word)
  /-- One `delay`: the sample on entry and the sample it returned on (R397). -/
  | delay (entry exit : Word)
  /-- `raise` (R15). -/
  | raise (condition : Condition)
deriving DecidableEq, Repr

/-- One symbol on the I2C bus, as in the traces of R344. `ack` is true for A and false for N. -/
inductive BusSym where
  | start
  | restart
  | stop
  /-- A byte the master sends; the target acknowledges it or not. -/
  | sent (byte : Byte) (ack : Bool)
  /-- A byte the master receives; the master acknowledges all but the last (R326). -/
  | received (byte : Byte) (ack : Bool)
deriving DecidableEq, Repr

/-- What the master does to an open-drain line (R322). -/
inductive Drive where
  | release
  | low
deriving DecidableEq, Repr

/-- The two lines of the bus as the master drives them (R322). -/
structure Lines where
  scl : Drive
  sda : Drive
deriving DecidableEq, Repr

/-- Both lines released: the idle bus (R328). -/
def Lines.idle : Lines := ⟨.release, .release⟩

/-- A stream of draws: the values the environment will give, then free values; `taken` counts the draws made (log 1). -/
structure Input (α : Type) where
  pending : List α
  taken   : Nat
deriving DecidableEq, Repr

/-- What is presented to the block in one step: a host command with its payload port (R102, R105), or a lone token of
the TX stream or of an RX frame (log 6, log 7). -/
inductive Request where
  | command (word : Word) (payload : Vector Byte 28)
  | txToken (byte : Byte)
  | rxToken (byte : Byte)
deriving DecidableEq, Repr

/-- Bytes by address, in one canonical form (Memory.wf): addresses strictly rising. An unlisted address has not been
written. -/
abbrev Memory := List Host.Cell

/-- The state. -/
@[ext]
structure State where
  /-- `state` of R30, R31. -/
  attach : AttachState
  /-- `meas_cc` of R32: none is 0 (no measurement in progress). -/
  measCc : Option Cc
  /-- `timer_active` of R33. -/
  timerActive : Bool
  /-- `timer_exp` of R34. -/
  timerExp : Word
  /-- `next_message_id` of R35. -/
  nextMessageId : BitVec 3
  /-- `int_n_mode` of R36. -/
  intNMode : IntNMode
  /-- `rx_idx` of R37. -/
  rxIdx : BitVec 2
  /-- `rx_ring` of R38, byte `o` of slot `k` at address `64k + o`. -/
  rxRing : Memory
  /-- `tx_buf` of R39. -/
  txBuf : Memory
  /-- `evq` of R40, oldest first. -/
  evq : List Event
  /-- Output: the response of the last step, if it was a command (R106). -/
  resp : Option Response
  /-- Output: the ordered trace of the last step (R23, R361). -/
  trace : List Act
  /-- Output: the bus symbols of the last step (R325, R326, R344). -/
  wire : List BusSym
  /-- Output: the lines as the master leaves them (R328). -/
  lines : Lines
  /-- Model: how many bytes of the token stream stand in `tx_buf` (R252, log 6). -/
  txPos : Nat
  /-- Model: the FUSB302B register values the block has established since the last chip reset (R47, log 13). -/
  chipRegs : Memory
  /-- Model: the ghost generation counter of each RX slot (R151, log 14). -/
  slotGen : Vector Nat 4
  /-- Model: the generation of the handle the host popped last for each RX slot (R151, U4, log 14). -/
  held : Vector (Option Nat) 4
  /-- Model: the last `millis()` sample, if one was taken (R24, log 2). -/
  lastMillis : Option Word
  /-- Input: the requests presented to the block, oldest first (R22, log 17). -/
  inbox : List Request
  /-- Input: the payload port, as the last command presented it (R105). -/
  payloadPort : Vector Byte 28
  /-- Input: the bytes the FUSB302B will return (R24). -/
  chipIn : Input Byte
  /-- Input: the samples of the millisecond counter (R24). -/
  millisIn : Input Word
  /-- Input: the INT_N samples, true for low (R24). -/
  intNIn : Input Bool
  /-- Input: the target's acknowledge bits for the bytes the master sends (R330). -/
  ackIn : Input Bool
  /-- Input: after how many further bus bytes the target holds SCL low for ever, if it does (R341, U12, log 5). -/
  sclHold : Option Nat
deriving DecidableEq, Repr

/-- Why a command has no end state (R399) or an access has no place. -/
inductive Fault where
  /-- POLL: the drain loop has outlasted every listed chip byte and `Config.drainPatience` (R234, U11: "stuck").
  Safe: the hardware goes on draining. -/
  | drainEndless
  /-- Any step with I2C traffic: the target holds SCL low for ever (R341, U12: "stuck").
  Safe: nothing is claimed of a command that never ends. -/
  | sclHeldLow
  /-- POLL in `Usb20` with the timer expired and `meas_cc = 0`, for which R192 has no line to flip.
  No run reaches it (R192). Safe. -/
  | measurementWithoutLine
  /-- A token step past address 39 of `tx_buf`, which R60 gives 40 bytes. Safe: no command does it (R123). -/
  | txBufferEnd
deriving DecidableEq, Repr

/-- Why a presented word or an instruction has no meaning. -/
inductive Refusal where
  /-- exec: the instruction has no meaning yet. Safe. -/
  | notModelled (mnemonic : String)
  /-- step: a byte on the TX stream that is none of the seven tokens the block writes (R120). Safe. -/
  | notATxToken (byte : Byte)
deriving DecidableEq, Repr

/-- The power-on state (R48). Fields R48 leaves unspecified, and the model's own, are as logs 10, 11, 14 and 18 say. -/
def State.reset : State where
  attach := .usb20
  measCc := none
  timerActive := false
  timerExp := 0#32
  nextMessageId := 0#3
  intNMode := .alternate
  rxIdx := 0#2
  rxRing := []
  txBuf := []
  evq := []
  resp := none
  trace := []
  wire := []
  lines := .idle
  txPos := 0
  chipRegs := []
  slotGen := Vector.replicate 4 0
  held := Vector.replicate 4 none
  lastMillis := none
  inbox := []
  payloadPort := Vector.replicate 28 0#8
  chipIn := ⟨[], 0⟩
  millisIn := ⟨[], 0⟩
  intNIn := ⟨[], 0⟩
  ackIn := ⟨[], 0⟩
  sclHold := none

end Sys2Proof.Machine
end

