-- ==== Sys2Proof/WellFormed.lean ====
section
/-! DEFINITION. Well-formed instructions: the operand values that R109 calls legal, and the PACKSYM lengths the
framer can produce (R121). Field widths are in the types. The decoder accepts every word of the right form, and the
machine answers an illegal operand as R109 says; well-formedness is what a conforming host and the framer present
(log 19). -/

namespace Sys2Proof

/-- `rev ∈ {1,2,3}` (R109). -/
def revLegal (rev : BitVec 2) : Bool := rev != 0#2

/-- `n ∈ {1..7}` for CREATE_DATA (R109). -/
def numObjsLegal (n : BitVec 3) : Bool := n != 0#3

/-- The PACKSYM counts of R121: `4n + 2` for `0 ≤ n ≤ 7`. -/
def packsymLegal (len : BitVec 5) : Bool := len.extractLsb' 0 2 == 2#2

/-- The checks of R109 and R121, constructor by constructor. -/
def Instr.wellFormed : Instr → Bool
  | .sendHeaderMessage _ rev => revLegal rev
  | .createCtrl _ rev => revLegal rev
  | .createData _ n rev => revLegal rev && numObjsLegal n
  | .tokPacksym len => packsymLegal len
  | .init | .startSink | .poll | .sendMessage _ | .hasEvent | .popEvent | .getState | .getDeviceId
  | .readRxByte _ _ | .eventCount | .hdrMessageType _ | .hdrNumDataObjs _ | .hdrSpecRev _ | .hdrMessageId _
  | .hdrExtended _ | .hdrDataRole _ | .hdrPowerRole _ | .tokSop1 | .tokSop2 | .tokJamCrc | .tokEop | .tokTxoff
  | .tokTxon | .rxTokenSop _ => true

end Sys2Proof
end

