-- ==== Sys2Proof/Machine/Operands.lean ====
section
/-! DEFINITION. Operand forms: the fields of a USB-PD header (R112) and the codec functions of 41_header_codec.md,
the payload port (R105), the address of a byte of `rx_ring` (R60), the TX token stream (R122, R252), and the widening
of a field to the response value (R104). -/

namespace Sys2Proof.Machine

/-- `zext_32` (R12, R104). -/
def zext32 {n : Nat} (v : BitVec n) : Word := v.setWidth 32

/-! The header, R112. -/

/-- Bits 4..0. -/
def typeBits (h : Header) : BitVec 5 := h.extractLsb' 0 5
/-- `num_data_objs(h) = h[14:12]` (R165). -/
def numDataObjs (h : Header) : BitVec 3 := h.extractLsb' 12 3
/-- `message_type(h)` (R166). -/
def messageType (h : Header) : Byte :=
  if numDataObjs h = 0#3 then (typeBits h).setWidth 8 else 0x80#8 ||| (typeBits h).setWidth 8
/-- `spec_rev(h) = zext_8(h[7:6]) + 1` (R167). -/
def specRev (h : Header) : Byte := (h.extractLsb' 6 2).setWidth 8 + 1#8
/-- `message_id(h) = h[11:9]` (R168). -/
def messageId (h : Header) : BitVec 3 := h.extractLsb' 9 3
/-- `extended(h) = h[15]` (R169). -/
def extended (h : Header) : BitVec 1 := h.extractLsb' 15 1
/-- `header[5]` (R170). -/
def dataRole (h : Header) : BitVec 1 := h.extractLsb' 5 1
/-- `header[8]` (R171). -/
def powerRole (h : Header) : BitVec 1 := h.extractLsb' 8 1
/-- `create_ctrl(type, rev)` (R161, R163). -/
def createCtrl (type : BitVec 5) (rev : BitVec 2) : Header :=
  type.setWidth 16 ||| ((rev - 1#2).setWidth 16 <<< 6)
/-- `create_data(type, n, rev)` (R162, R163). -/
def createData (type : BitVec 5) (n : BitVec 3) (rev : BitVec 2) : Header :=
  type.setWidth 16 ||| ((rev - 1#2).setWidth 16 <<< 6) ||| (n.setWidth 16 <<< 12)
/-- `stamp_id(h, id)`: the ID is OR'd into bits 11..9 (R164, U9). -/
def stampId (h : Header) (id : BitVec 3) : Header := h ||| (id.setWidth 16 <<< 9)
/-- `is_good_crc(h)` (R172). -/
def isGoodCrc (h : Header) : Bool := messageType h == Config.mtGoodCrc.setWidth 8

/-- `h[7:0]` (R69). -/
def headerLow (h : Header) : Byte := h.extractLsb' 0 8
/-- `h[15:8]` (R69). -/
def headerHigh (h : Header) : Byte := h.extractLsb' 8 8
/-- `h = b1 | (b2 << 8)` (R69, R224). -/
def headerOf (low high : Byte) : Header := low.setWidth 16 ||| (high.setWidth 16 <<< 8)

/-- Payload bytes of a message: `4n` (R105, R125). -/
def payloadLength (h : Header) : Nat := 4 * (numDataObjs h).toNat

/-- `pl[0 .. 4n-1]` of the payload port; the rest is ignored (R105). -/
def payloadOperand (h : Header) (port : Vector Byte 28) : List Byte := port.toList.take (payloadLength h)

/-- The address of `rx_ring[slot][offset]` (R60). -/
def ringAddress (slot : BitVec 2) (offset : Nat) : Nat := Config.rxSlotBytes * slot.toNat + offset

/-- The byte a TX token puts in the stream (R120, R121). -/
def packsymFor (h : Header) : Byte := tokPacksymBase ||| BitVec.ofNat 8 (payloadLength h + 2)

/-- `tx_stream(h, p)` (R122, R252). -/
def txStream (h : Header) (p : List Byte) : List Byte :=
  [tokSop1Byte, tokSop1Byte, tokSop1Byte, tokSop2Byte, packsymFor h, headerLow h, headerHigh h]
    ++ p ++ [tokJamCrcByte, tokEopByte, tokTxoffByte, tokTxonByte]

/-- `enc(S.state)` (R31, R207). -/
def attachCode : AttachState → BitVec 2
  | .usb20 => 0#2
  | .usbPdWait => 1#2
  | .usbPd => 2#2
  | .usbRetryWait => 3#2

/-- The POP_EVENT value of an event (R107, R147). -/
def eventValue : Event → Word
  | .stateChanged => 0x00000003#32
  | .messageReceived h k _ => (zext32 h <<< 16) ||| (zext32 k <<< 4) ||| 0x5#32

/-- `3 - c`: the other CC line (R192). -/
def Cc.other : Cc → Cc
  | .cc1 => .cc2
  | .cc2 => .cc1

/-- `V_SW0_MEAS(c)` (R64, R191). -/
def vSw0Meas : Cc → Byte
  | .cc1 => vSw0MeasCc1
  | .cc2 => vSw0MeasCc2

/-- `V_SW1_PD(c)` (R64, R194). -/
def vSw1Pd : Cc → Byte
  | .cc1 => vSw1PdCc1
  | .cc2 => vSw1PdCc2

/-- The trace code of a condition (R361). -/
def Condition.code : Condition → Byte
  | .transientBusError _ _ => 0x10#8
  | .notSop _ => 0x11#8
  | .badCrc _ => 0x11#8
  | .protocolTimeout => 0x12#8
  | .chipHardReset => 0x13#8
  | .queueOverflow _ => 0x14#8
  | .retryFail => 0x15#8

end Sys2Proof.Machine
end

