-- ==== Sys2Proof/Machine/Ops.lean ====
section
/-! DEFINITION. The shared operations: memory, draws, the trace, the I2C master, the counter and the timer, the event
queue, and the end of a step. The block takes no exception (R367): `raise` records a condition in the trace and the
rule that raises it says what happens next (R15). -/

namespace Sys2Proof.Machine

/-! Memory: addresses strictly rising. -/

/-- The canonical form: addresses strictly rising, so that equal memories are equal data. -/
def Memory.wf : Memory → Bool
  | [] => true
  | [_] => true
  | (a, _) :: (a', b') :: rest => decide (a < a') && Memory.wf ((a', b') :: rest)

/-- Every listed address is below `n`. -/
def Memory.below (n : Nat) (m : Memory) : Bool := m.all fun c => decide (c.1 < n)

/-- The byte last written at an address; none if nothing was. -/
def Memory.read (m : Memory) (a : Nat) : Option Byte :=
  match m with
  | [] => none
  | (a', b) :: rest => if a = a' then some b else Memory.read rest a

/-- Write one byte, keeping the canonical form. -/
def Memory.write (m : Memory) (a : Nat) (b : Byte) : Memory :=
  match m with
  | [] => [(a, b)]
  | (a', b') :: rest =>
    if a < a' then (a, b) :: (a', b') :: rest
    else if a = a' then (a, b) :: rest
    else (a', b') :: Memory.write rest a b

/-- Write bytes at consecutive addresses from `a`. -/
def Memory.writeList (m : Memory) (a : Nat) : List Byte → Memory
  | [] => m
  | b :: bs => Memory.writeList (Memory.write m a b) (a + 1) bs

/-- `rx_ring[slot][offset]` (R150); a byte never written holds its power-on value (R48). -/
def State.ringByte (s : State) (slot : BitVec 2) (offset : Nat) : Byte :=
  (s.rxRing.read (ringAddress slot offset)).getD (Config.powerOnRingByte (ringAddress slot offset))

/-- `tx_buf[a]` (R252); a byte never written holds its power-on value (R48). -/
def State.txByte (s : State) (a : Nat) : Byte := (s.txBuf.read a).getD (Config.powerOnTxByte a)

/-- `tx_buf[a .. a+n-1]`. -/
def State.txBytes (s : State) (a : Nat) : Nat → List Byte
  | 0 => []
  | n + 1 => s.txByte a :: State.txBytes s (a + 1) n

/-! Draws (R24, log 1): the listed values first, then free ones. -/

/-- The next draw of a stream. -/
def Input.value {α : Type} (free : Nat → α) (i : Input α) : α := i.pending.headD (free i.taken)

/-- The stream after one draw. -/
def Input.next {α : Type} (i : Input α) : Input α := ⟨i.pending.tail, i.taken + 1⟩

/-- The next `n` draws of a stream. -/
def Input.values {α : Type} (free : Nat → α) : Nat → Input α → List α
  | 0, _ => []
  | n + 1, i => i.value free :: Input.values free n i.next

/-- The stream after `n` draws. -/
def Input.skip {α : Type} : Nat → Input α → Input α
  | 0, i => i
  | n + 1, i => Input.skip n i.next

/-! The step's outputs. -/

/-- The start of a step: its outputs are its own (R23, log 16). -/
def State.begin (s : State) : State := { s with trace := [], wire := [], resp := none }

/-- Append an entry to the trace. -/
def State.record (s : State) (a : Act) : State := { s with trace := s.trace ++ [a] }

/-- `raise E(info)`: "only records the condition in the model's trace" (R15, R367). -/
def State.raise (s : State) (c : Condition) : State := s.record (.raise c)

/-- `respond(status, value)` (R15, R106). -/
def State.respond (s : State) (status : BitVec 2) (value : Word) : State := { s with resp := some ⟨status, value⟩ }

/-! The I2C master (47_i2c_master.md). -/

/-- The bytes sent before the first one that is not acknowledged, and that one (R330). -/
structure Sent where
  /-- The symbols put on the bus. -/
  syms  : List BusSym
  /-- How many bytes were acknowledged. -/
  acked : Nat
  /-- The acknowledge draws left. -/
  acks  : Input Bool
deriving DecidableEq, Repr

/-- Send bytes, expecting an acknowledge after each; stop after a byte that gets none (R325, R330). -/
def sendBytes : List Byte → Input Bool → Sent
  | [], acks => ⟨[], 0, acks⟩
  | b :: bs, acks =>
    if acks.value Config.freeAck then
      let r := sendBytes bs acks.next
      ⟨.sent b true :: r.syms, r.acked + 1, r.acks⟩
    else ⟨[.sent b false], 0, acks.next⟩

/-- The bytes of a read: the master acknowledges every one but the last (R326). -/
def receivedSyms : List Byte → List BusSym
  | [] => []
  | [b] => [.received b false]
  | b :: b' :: bs => .received b true :: receivedSyms (b' :: bs)

/-- How a transaction opens: a START from the idle bus, a repeated START if the last write kept the bus (R325). -/
def openingSym (l : Lines) : BusSym := if l = Lines.idle then .start else .restart

/-- The lines as a symbol leaves them (R340). -/
def BusSym.after : BusSym → Lines
  | .start => ⟨.low, .low⟩
  | .restart => ⟨.low, .low⟩
  | .stop => ⟨.release, .release⟩
  | .sent _ _ => ⟨.low, .release⟩
  | .received _ true => ⟨.low, .low⟩
  | .received _ false => ⟨.low, .release⟩

/-- The lines after a run of symbols. -/
def linesAfter (l : Lines) (syms : List BusSym) : Lines := syms.foldl (fun _ y => y.after) l

/-- Put symbols on the bus. -/
def State.onWire (s : State) (syms : List BusSym) : State :=
  { s with wire := s.wire ++ syms, lines := linesAfter s.lines syms }

/-- What a write leaves in the FUSB302B, as far as the block's own writes say (R47, log 13): a RESET write with SW_RES
undoes every earlier one (R393), FIFOS holds no value, every other register holds the byte acknowledged last. -/
def noteWrite (reg : Byte) (acked : List Byte) (regs : Memory) : Memory :=
  match acked.getLast? with
  | none => regs
  | some b =>
    if reg = regReset then (if b.getLsbD bitResetSwRes then [] else regs)
    else if reg = regFifos then regs
    else regs.write reg.toNat b

/-- TransientBusError, where a byte was not acknowledged (R330, R362). -/
def State.noteNack (s : State) (whole : Bool) (c : Condition) : State :=
  { s with trace := s.trace ++ (if whole then [] else [.raise c]) }

/-- `RegWrite(reg, v)` (R325, R330). The block always ends with STOP; a write without it leaves the bus held. -/
def State.regWriteEnding (s : State) (endWithStop : Bool) (reg : Byte) (v : List Byte) : State :=
  let r := sendBytes (addrWrite :: reg :: v) s.ackIn
  let whole := r.acked == v.length + 2
  let s1 := { s with ackIn := r.acks, chipRegs := noteWrite reg (v.take (r.acked - 2)) s.chipRegs }
  let s2 := s1.onWire (openingSym s.lines :: r.syms ++ (if endWithStop || !whole then [.stop] else []))
  (s2.record (.write reg v r.acked)).noteNack whole (.transientBusError reg .write)

/-- `RegWrite(reg, v)` with STOP, the only form the block uses (R325). -/
def State.regWrite (s : State) (reg : Byte) (v : List Byte) : State := s.regWriteEnding true reg v

/-- `RegWrite1(reg, b)` (R14). -/
def State.regWrite1 (s : State) (reg : Byte) (b : Byte) : State := s.regWrite reg [b]

/-- The bytes `RegRead(reg, n)` returns: each a draw, received or not (R326, R330, log 20). -/
def State.readData (s : State) (n : Nat) : List Byte := Input.values Config.freeChipByte n s.chipIn

/-- What the master sends in a read: address and register, a repeated START, the address again; a byte without an
acknowledge ends it (R326, R330). -/
def sendRead (reg : Byte) (acks : Input Bool) : Sent :=
  let r := sendBytes [addrWrite, reg] acks
  if r.acked = 2 then
    let r' := sendBytes [addrRead] r.acks
    ⟨r.syms ++ .restart :: r'.syms, 2 + r'.acked, r'.acks⟩
  else r

/-- The state after `RegRead(reg, n)` (R326, R330). -/
def State.regRead (s : State) (reg : Byte) (n : Nat) : State :=
  let r := sendRead reg s.ackIn
  let whole := r.acked == 3
  let s1 := { s with ackIn := r.acks, chipIn := Input.skip n s.chipIn }
  let s2 := s1.onWire (openingSym s.lines :: r.syms ++ (if whole then receivedSyms (s.readData n) else []) ++ [.stop])
  (s2.record (.read reg (s.readData n) r.acked)).noteNack whole (.transientBusError reg .read)

/-- The byte `RegRead1` returns (R14). -/
def State.readByte (s : State) : Byte := s.chipIn.value Config.freeChipByte

/-- The state after `RegRead1(reg)` (R14). -/
def State.regRead1 (s : State) (reg : Byte) : State := s.regRead reg 1

/-! The millisecond counter (R24, R397) and the timer (45_timer.md). -/

/-- R24's constraint on a sample `t'` after a sample `t`: `(t' - t) mod 2^32 < 2^31`. A draw that meets it is taken as
it stands; one that does not is read with the top bit of its distance cleared (log 2). -/
def laterThan (t : Word) (draw : Word) : Word := t + ((draw - t) &&& 0x7FFFFFFF#32)

/-- The value `millis()` returns next (R15, R24). -/
def State.millisNow (s : State) : Word :=
  match s.lastMillis with
  | none => s.millisIn.value Config.freeMillis
  | some t => laterThan t (s.millisIn.value Config.freeMillis)

/-- The counter sampled, without a trace entry. -/
def State.tick (s : State) : State := { s with millisIn := s.millisIn.next, lastMillis := some s.millisNow }

/-- The state after `millis()` (R15). -/
def State.sampleMillis (s : State) : State := s.tick.record (.millis s.millisNow)

/-- A draw taken as the sample that ends a delay of `ms` (R397): the first at least `ms` after `entry`. The sample before it
is less than `ms` after `entry` and R24 lets it come less than 2^31 after that one, so it is `ms` to `ms + 2^31 - 2` after
`entry`; any other draw is read as the moment `ms` is reached (log 3). -/
def inTime (entry ms : Word) (draw : Word) : Word :=
  if draw - (entry + ms) < 0x7FFFFFFF#32 then draw else entry + ms

/-- `delay(ms)` (R397): the sample on entry, and the first sample at least `ms` after it (log 3). -/
def State.delay (s : State) (ms : Word) : State :=
  let s1 := s.tick
  let t := inTime s.millisNow ms (s1.millisIn.value Config.freeMillis)
  { s1 with millisIn := s1.millisIn.next, lastMillis := some t }.record (.delay s.millisNow t)

/-- `timer_start(ms)` (R281). -/
def State.timerStart (s : State) (ms : Word) : State :=
  { s.sampleMillis with timerExp := s.millisNow + ms, timerActive := true }

/-- `timer_cancel()` (R282). -/
def State.timerCancel (s : State) : State := { s with timerActive := false }

/-- The value of `timer_expired()` (R283). -/
def State.timerExpired (s : State) : Bool :=
  s.timerActive && decide (s.millisNow - s.timerExp < Config.expiryWindow)

/-- The state after `timer_expired()`: an inactive timer takes no sample (R283, R284). -/
def State.afterTimerCheck (s : State) : State := if s.timerActive then s.sampleMillis else s

/-! INT_N. -/

/-- `int_n_asserted()` (R15). -/
def State.intNLow (s : State) : Bool := s.intNIn.value Config.freeIntNLow

/-- The state after the INT_N sample. -/
def State.sampleIntN (s : State) : State := { s with intNIn := s.intNIn.next }.record (.intN s.intNLow)

/-- `init_int_n()`: one INT_N_RELEASE pulse (R15, R36). -/
def State.initIntN (s : State) : State := { s with intNMode := .input }.record .pulse

/-! The event queue (40_event_queue.md). -/

/-- `push(e)`: "no-op if full; otherwise enqueue" (R141). -/
def State.push (s : State) (e : Event) : State :=
  if s.evq.length = Config.queueDepth then s.raise (.queueOverflow e) else { s with evq := s.evq ++ [e] }

/-- The handle a popped event gives the host (R151, log 14). -/
def noteHeld (held : Vector (Option Nat) 4) : Event → Vector (Option Nat) 4
  | .stateChanged => held
  | .messageReceived _ k g => held.set k.toNat (some g)

/-- `pop()` on a non-empty queue whose head is `e` (R142). -/
def State.popped (s : State) (e : Event) (rest : List Event) : State :=
  { s with evq := rest, held := noteHeld s.held e }

/-- `clear()` (R144). -/
def State.clearEvents (s : State) : State := { s with evq := [] }

/-- The generation of a slot (R151). -/
def State.generation (s : State) (slot : BitVec 2) : Nat := s.slotGen[slot.toNat]

/-- The frame bytes written to slot `rx_idx` from offset 0; the slot's generation moves on (R225, R151). -/
def State.storeFrame (s : State) (d : List Byte) : State :=
  { s with
    rxRing := s.rxRing.writeList (ringAddress s.rxIdx 0) d
    slotGen := s.slotGen.set s.rxIdx.toNat (s.generation s.rxIdx + 1) }

/-! The end of a step. -/

/-- Bytes of nine clock cycles on the bus (R327). -/
def busBytes : List BusSym → Nat
  | [] => 0
  | .sent _ _ :: rest => busBytes rest + 1
  | .received _ _ :: rest => busBytes rest + 1
  | .start :: rest => busBytes rest
  | .restart :: rest => busBytes rest
  | .stop :: rest => busBytes rest

/-- The end of a step that began in `before`: it completes in `after` unless the target held SCL low for ever somewhere
in its traffic (R341, R399). -/
def complete (before after : State) : Host.Outcome State Fault Refusal :=
  match before.sclHold with
  | none => .next after
  | some k =>
    if busBytes after.wire ≤ k then .next { after with sclHold := some (k - busBytes after.wire) }
    else .fault .sclHeldLow

/-- The end of a step that may be stuck. -/
def completeOr (before : State) : Except Fault State → Host.Outcome State Fault Refusal
  | .ok after => complete before after
  | .error f => .fault f

end Sys2Proof.Machine
end

