-- ==== Sys2Proof/Machine/Codec.lean ====
section
/-! DEFINITION. The header-codec commands (41_header_codec.md): each reads only its operands (R160). -/

namespace Sys2Proof.Machine

/-- A command that only answers: its response and nothing else (R160). -/
def answer (status : BitVec 2) (value : Word) (s : State) : Host.Outcome State Fault Refusal :=
  complete s (s.begin.respond status value)

/-- ILLEGAL_OPERAND: response `(2, 0)` and no effect (R109, R360). -/
def illegalOperand (s : State) : Host.Outcome State Fault Refusal := answer 2#2 0#32 s

/-- CREATE_CTRL (R161). -/
def execCreateCtrl (type : BitVec 5) (rev : BitVec 2) (s : State) : Host.Outcome State Fault Refusal :=
  if revLegal rev then answer 0#2 (zext32 (createCtrl type rev)) s else illegalOperand s

/-- CREATE_DATA (R162). -/
def execCreateData (type : BitVec 5) (n : BitVec 3) (rev : BitVec 2) (s : State) :
    Host.Outcome State Fault Refusal :=
  if revLegal rev && numObjsLegal n then answer 0#2 (zext32 (createData type n rev)) s else illegalOperand s

/-- HDR_MESSAGE_TYPE (R166). -/
def execHdrMessageType (header : Header) (s : State) : Host.Outcome State Fault Refusal :=
  answer 0#2 (zext32 (messageType header)) s

/-- HDR_NUM_DATA_OBJS (R165). -/
def execHdrNumDataObjs (header : Header) (s : State) : Host.Outcome State Fault Refusal :=
  answer 0#2 (zext32 (numDataObjs header)) s

/-- HDR_SPEC_REV (R167). -/
def execHdrSpecRev (header : Header) (s : State) : Host.Outcome State Fault Refusal :=
  answer 0#2 (zext32 (specRev header)) s

/-- HDR_MESSAGE_ID (R168). -/
def execHdrMessageId (header : Header) (s : State) : Host.Outcome State Fault Refusal :=
  answer 0#2 (zext32 (messageId header)) s

/-- HDR_EXTENDED (R169). -/
def execHdrExtended (header : Header) (s : State) : Host.Outcome State Fault Refusal :=
  answer 0#2 (zext32 (extended header)) s

/-- HDR_DATA_ROLE (R170). -/
def execHdrDataRole (header : Header) (s : State) : Host.Outcome State Fault Refusal :=
  answer 0#2 (zext32 (dataRole header)) s

/-- HDR_POWER_ROLE (R171). -/
def execHdrPowerRole (header : Header) (s : State) : Host.Outcome State Fault Refusal :=
  answer 0#2 (zext32 (powerRole header)) s

end Sys2Proof.Machine
end

