-- ==== Sys2Proof/Machine/Flags.lean ====
section
/-! DEFINITION. The block has no condition codes (R44). What stands here is every status and interrupt bit of the
FUSB302B that the block tests (R63), and the fields of DEVICE_ID. -/

namespace Sys2Proof.Machine

/-- STATUS0.BC_LVL, bits 1..0 (R63, R192). -/
def bcLvl (status0 : Byte) : BitVec 2 := status0.extractLsb' 0 2
/-- STATUS0.CRC_CHK, bit 4 (R63, R226). -/
def crcChk (status0 : Byte) : Bool := status0.getLsbD 4
/-- STATUS1.RX_EMPTY, bit 5 (R63, R222). -/
def rxEmpty (status1 : Byte) : Bool := status1.getLsbD 5
/-- STATUS1.TX_EMPTY, bit 3 (R63, R256). -/
def txEmpty (status1 : Byte) : Bool := status1.getLsbD 3
/-- INTERRUPT.I_ACTIVITY, bit 6 (R63, R220). -/
def iActivity (interrupt : Byte) : Bool := interrupt.getLsbD 6
/-- INTERRUPT.I_CRC_CHK, bit 4 (R63, R220). -/
def iCrcChk (interrupt : Byte) : Bool := interrupt.getLsbD 4
/-- INTERRUPTA.I_HARDRST, bit 0 (R63, R220). -/
def iHardRst (interrupta : Byte) : Bool := interrupta.getLsbD 0
/-- INTERRUPTA.I_TXSENT, bit 2 (R63, R220). -/
def iTxSent (interrupta : Byte) : Bool := interrupta.getLsbD 2
/-- INTERRUPTA.I_RETRYFAIL, bit 4 (R63, R221). -/
def iRetryFail (interrupta : Byte) : Bool := interrupta.getLsbD 4
/-- INTERRUPTB.I_GCRCSENT, bit 0 (R63, R220). -/
def iGcrcSent (interruptb : Byte) : Bool := interruptb.getLsbD 0

/-- DEVICE_ID.VERSION_ID, bits 7..4 (R63). The block hands the whole byte to the host (R208). -/
def versionId (deviceId : Byte) : BitVec 4 := deviceId.extractLsb' 4 4
/-- DEVICE_ID.PRODUCT_ID, bits 3..2 (R63). -/
def productId (deviceId : Byte) : BitVec 2 := deviceId.extractLsb' 2 2
/-- DEVICE_ID.REVISION_ID, bits 1..0 (R63). -/
def revisionId (deviceId : Byte) : BitVec 2 := deviceId.extractLsb' 0 2

/-- The drain triggers of R220: I_ACTIVITY, I_CRC_CHK or I_GCRCSENT. -/
def drainTriggered (interrupt interruptb : Byte) : Bool :=
  iActivity interrupt || iCrcChk interrupt || iGcrcSent interruptb

end Sys2Proof.Machine
end

