-- ==== Sys2Proof/Machine/Attach.lean ====
section
/-! DEFINITION. Initialisation and the attach state machine (42_attach_fsm.md): INIT, START_SINK, GET_DEVICE_ID, and
the sub-sequences of POLL that move the attach state. -/

namespace Sys2Proof.Machine

/-- `chip_bringup()` (R181). -/
def chipBringup (s : State) : State :=
  let s1 := s.regWrite1 regReset vResetAll
  let s2 := s1.delay Config.resetDelayMs
  let s3 := s2.regWrite1 regPower vPowerNoOsc
  let s4 := s3.regWrite1 regMask vMaskAll
  let s5 := s4.regWrite1 regMaska vMaskaAll
  s5.regWrite1 regMaskb vMaskbAll

/-- `init_body()` (R182). -/
def initBody (s : State) : State :=
  { (chipBringup s).clearEvents with
    nextMessageId := 0#3, timerActive := false, attach := .usb20, measCc := none, rxIdx := 0#2 }

/-- `start_measurement(c)` (R191). -/
def startMeasurement (c : Cc) (s : State) : State :=
  { (s.regWrite1 regSwitches0 (vSw0Meas c)).timerStart Config.measTimeoutMs with measCc := some c }

/-- `start_sink_body()` (R190). -/
def startSinkBody (s : State) : State := startMeasurement .cc1 { s with attach := .usb20 }

/-- The register writes of `enter_pd_wait(c)`, in order (R194). -/
def pdWaitWrites (c : Cc) (s : State) : State :=
  let s1 := s.regWrite1 regControl3 vCtrl3Pd
  let s2 := s1.regWrite1 regMask vMaskPd
  let s3 := s2.regWrite1 regMaska vMaskaPd
  let s4 := s3.regWrite1 regMaskb vMaskbPd
  let s5 := s4.regWrite1 regSwitches1 (vSw1Pd c)
  s5.regWrite1 regControl0 vCtrl0Pd

/-- `enter_pd_wait(c)` (R194). -/
def enterPdWait (c : Cc) (s : State) : State :=
  { pdWaitWrites c s.initIntN with measCc := none, attach := .usbPdWait }.timerStart Config.pdWaitTimeoutMs

/-- `check_measurement()` (R192). With `meas_cc = 0`, which no run reaches, there is no line to flip (log 15). -/
def checkMeasurement (s : State) : Except Fault State :=
  match s.measCc with
  | none => .error .measurementWithoutLine
  | some c =>
    let s1 := s.regRead1 regStatus0
    if bcLvl s.readByte = 0#2 then .ok (startMeasurement c.other s1) else .ok (enterPdWait c s1)

/-- `enter_retry_wait()` (R196). -/
def enterRetryWait (s : State) : State :=
  ({ initBody s with attach := .usbRetryWait }.timerStart Config.retryWaitMs).push .stateChanged

/-- INIT (R182). -/
def execInit (s : State) : Host.Outcome State Fault Refusal := complete s ((initBody s.begin).respond 0#2 0#32)

/-- START_SINK (R190). -/
def execStartSink (s : State) : Host.Outcome State Fault Refusal :=
  complete s ((startSinkBody s.begin).respond 0#2 0#32)

/-- GET_DEVICE_ID (R208): the raw byte, zero-extended (D30). -/
def execGetDeviceId (s : State) : Host.Outcome State Fault Refusal :=
  let s1 := s.begin
  complete s ((s1.regRead1 regDeviceId).respond 0#2 (zext32 s1.readByte))

end Sys2Proof.Machine
end

