-- ==== Sys2Proof/Machine/Transmit.lean ====
section
/-! DEFINITION. The transmit path (44_transmit_path.md): SEND_MESSAGE, SEND_HEADER_MESSAGE, the TX-sent power-down,
and the TX tokens as steps of the framer (log 6). -/

namespace Sys2Proof.Machine

/-- Start a token stream: it is built in `tx_buf` from offset 0 (R252). -/
def State.startStream (s : State) : State := { s with txPos := 0 }

/-- Append one byte to the stream in `tx_buf` (R252). -/
def State.emitByte (s : State) (b : Byte) : State :=
  { s with txBuf := s.txBuf.write s.txPos b, txPos := s.txPos + 1 }

/-- Append bytes to the stream in `tx_buf`, in order (R252). -/
def State.emitBytes (s : State) : List Byte → State
  | [] => s
  | b :: bs => State.emitBytes (s.emitByte b) bs

/-- SEND_MESSAGE without its response (R250): POWER, stamping, building, the FIFOS burst, the ID advance (R251 to R254). -/
def sendMessageBody (header : Header) (payload : List Byte) (s : State) : State :=
  let s1 := s.regWrite1 regPower vPowerAll
  let s2 := s1.startStream.emitBytes (txStream (stampId header s1.nextMessageId) payload)
  let s3 := s2.regWrite regFifos (s2.txBytes 0 (11 + payloadLength header))
  { s3 with nextMessageId := s3.nextMessageId + 1#3 }

/-- SEND_MESSAGE (R250); the payload is on the payload port (R105). -/
def execSendMessage (header : Header) (s : State) : Host.Outcome State Fault Refusal :=
  complete s ((sendMessageBody header (payloadOperand header s.payloadPort) s.begin).respond 0#2 0#32)

/-- SEND_HEADER_MESSAGE (R258): SEND_MESSAGE of `create_ctrl(type, rev)` with no payload. -/
def execSendHeaderMessage (type : BitVec 5) (rev : BitVec 2) (s : State) : Host.Outcome State Fault Refusal :=
  if revLegal rev then complete s ((sendMessageBody (createCtrl type rev) [] s.begin).respond 0#2 0#32)
  else illegalOperand s

/-- `tx_sent()` (R256): the oscillator goes off if STATUS1.TX_EMPTY is set. -/
def txSent (s : State) : State :=
  let s1 := s.regRead1 regStatus1
  if txEmpty s.readByte then s1.regWrite1 regPower vPowerNoOsc else s1

/-- A token as a step of its own: the framer appends its byte to the stream in `tx_buf` (R252, log 6). `tx_buf` has
no address 40 (R60, log 9). -/
def emitToken (b : Byte) (s : State) : Host.Outcome State Fault Refusal :=
  if s.txPos < Config.txBufBytes then complete s (s.begin.emitByte b) else .fault .txBufferEnd

/-- TOK_SOP1 (R120, R252). -/
def execTokSop1 (s : State) : Host.Outcome State Fault Refusal := emitToken tokSop1Byte s

/-- TOK_SOP2 (R120, R252). -/
def execTokSop2 (s : State) : Host.Outcome State Fault Refusal := emitToken tokSop2Byte s

/-- TOK_PACKSYM with its count (R120, R121, R252). -/
def execTokPacksym (len : BitVec 5) (s : State) : Host.Outcome State Fault Refusal := emitToken (packsymByte len) s

/-- TOK_JAM_CRC (R120, R252). -/
def execTokJamCrc (s : State) : Host.Outcome State Fault Refusal := emitToken tokJamCrcByte s

/-- TOK_EOP (R120, R252). -/
def execTokEop (s : State) : Host.Outcome State Fault Refusal := emitToken tokEopByte s

/-- TOK_TXOFF (R120, R252). -/
def execTokTxoff (s : State) : Host.Outcome State Fault Refusal := emitToken tokTxoffByte s

/-- TOK_TXON (R120, R252). -/
def execTokTxon (s : State) : Host.Outcome State Fault Refusal := emitToken tokTxonByte s

end Sys2Proof.Machine
end

