-- ==== Sys2Proof/Machine/Receive.lean ====
section
/-! DEFINITION. The interrupt handler and the receive path (43_receive_path.md), and the RX token class as a step of the
deframer (log 7). -/

namespace Sys2Proof.Machine

/-- Entry into `UsbPd` (R231). -/
def enterUsbPd (s : State) : State :=
  if s.attach = .usbPd then s else ({ s with attach := .usbPd }.timerCancel).push .stateChanged

/-- A frame that passes the CRC gate and the GoodCRC filter (R231, R232): the index advances even where the push is
dropped. -/
def acceptFrame (h : Header) (s : State) : State :=
  let s1 := enterUsbPd s
  let s2 := s1.push (.messageReceived h s1.rxIdx (s1.generation s1.rxIdx))
  { s2 with rxIdx := s2.rxIdx + 1#2 }

/-- The verdict on a frame whose bytes are stored: CRC_CHK (R226, R227), then the GoodCRC filter (R228). -/
def judgeFrame (h : Header) (status0 : Byte) (s : State) : State :=
  if crcChk status0 then (if isGoodCrc h then s else acceptFrame h s) else s.raise (.badCrc h)

/-- The rest of an SOP frame: payload and CRC into slot `rx_idx` (R225), then the verdict. -/
def receiveFrame (h : Header) (s : State) : State :=
  let d := s.readData (payloadLength h + 4)
  let s1 := (s.regRead regFifos (payloadLength h + 4)).storeFrame d
  judgeFrame h s1.readByte (s1.regRead1 regStatus0)

/-- A frame whose token fails the SOP test: the RX FIFO is flushed (R223). -/
def dropNonSop (token : Byte) (s : State) : State :=
  (s.raise (.notSop token)).regWrite1 regControl1 vCtrl1RxFlush

/-- One frame of the drain loop, after STATUS1 (R222): token and header, then the frame. The flag says whether the loop
goes on. -/
def deframe (s : State) : Bool × State :=
  let f := s.readData 3
  let s1 := s.regRead regFifos 3
  if isSopToken (f.getD 0 0#8) then (true, receiveFrame (headerOf (f.getD 1 0#8) (f.getD 2 0#8)) s1)
  else (false, dropNonSop (f.getD 0 0#8) s1)

/-- The drain loop (R222), followed for at most so many frames (R234, log 4). -/
def drain : Nat → State → Except Fault State
  | 0, _ => .error .drainEndless
  | k + 1, s =>
    let s1 := s.regRead1 regStatus1
    if rxEmpty s.readByte then .ok s1
    else if (deframe s1).1 then drain k (deframe s1).2 else .ok (deframe s1).2

/-- `drain_rx()` (R222). Each frame consumes chip bytes, so no listed byte is left when the bound is met (log 4). -/
def drainRx (s : State) : Except Fault State := drain (Config.drainPatience + (s.chipIn.pending.length + 1)) s

/-- I_RETRYFAIL is recorded and not acted on (R221). -/
def noteRetryFail (interrupta : Byte) (s : State) : State := if iRetryFail interrupta then s.raise .retryFail else s

/-- I_TXSENT (R220, R256). -/
def handleTxSent (interrupta : Byte) (s : State) : State := if iTxSent interrupta then txSent s else s

/-- `handle_interrupts()` (R220): the three reads, then I_HARDRST alone, or I_RETRYFAIL, I_TXSENT and the drain. -/
def handleInterrupts (s : State) : Except Fault State :=
  let s1 := s.regRead1 regInterrupt
  let s2 := s1.regRead1 regInterrupta
  let s3 := s2.regRead1 regInterruptb
  let interrupt := s.readByte
  let interrupta := s1.readByte
  let interruptb := s2.readByte
  if iHardRst interrupta then .ok (enterRetryWait (s3.raise .chipHardReset))
  else
    let s4 := handleTxSent interrupta (noteRetryFail interrupta s3)
    if drainTriggered interrupt interruptb then drainRx s4 else .ok s4

/-- A frame token presented as the next byte of the RX FIFO (log 7). -/
def State.presentToken (s : State) (token : Byte) : State :=
  { s with chipIn := { s.chipIn with pending := token :: s.chipIn.pending } }

/-- RX_TOKEN_SOP (R124, R223): the deframer reads a frame that begins with this token. -/
def execRxTokenSop (low : BitVec 5) (s : State) : Host.Outcome State Fault Refusal :=
  complete s (deframe (s.begin.presentToken (0b111#3 ++ low))).2

end Sys2Proof.Machine
end

