-- ==== Sys2Proof/Machine/Poll.lean ====
section
/-! DEFINITION. POLL (42_attach_fsm.md R201). -/

namespace Sys2Proof.Machine

/-- The timer branch of POLL, by attach state (R201). -/
def onExpiry (s : State) : Except Fault State :=
  match s.attach with
  | .usb20 => checkMeasurement s
  | .usbPdWait => .ok (enterRetryWait (s.raise .protocolTimeout))
  | .usbRetryWait => .ok (startSinkBody s)
  | .usbPd => .ok s

/-- The timer check of POLL (R201, R283). -/
def pollTimer (s : State) : Except Fault State :=
  if s.timerExpired then onExpiry s.afterTimerCheck else .ok s.afterTimerCheck

/-- POLL without its response (R201): INT_N is sampled only outside `Usb20`, and where it is low the timer is not
examined. -/
def pollBody (s : State) : Except Fault State :=
  if s.attach = .usb20 then pollTimer s
  else if s.intNLow then handleInterrupts s.sampleIntN
  else pollTimer s.sampleIntN

/-- The response of a sequence that ended. -/
def respondOk : Except Fault State → Except Fault State
  | .ok s => .ok (s.respond 0#2 0#32)
  | .error f => .error f

/-- POLL (R201). -/
def execPoll (s : State) : Host.Outcome State Fault Refusal := completeOr s (respondOk (pollBody s.begin))

end Sys2Proof.Machine
end

