-- ==== Sys2Proof/Machine/Queue.lean ====
section
/-! DEFINITION. The event-queue commands and the reads of block state: HAS_EVENT, POP_EVENT, EVENT_COUNT,
READ_RX_BYTE (40_event_queue.md) and GET_STATE (42_attach_fsm.md R207). -/

namespace Sys2Proof.Machine

/-- HAS_EVENT (R146). -/
def execHasEvent (s : State) : Host.Outcome State Fault Refusal :=
  answer 0#2 (if 0 < s.evq.length then 1#32 else 0#32) s

/-- POP_EVENT (R142, R147): an empty queue answers `(0, 0)` and changes nothing (D6). -/
def execPopEvent (s : State) : Host.Outcome State Fault Refusal :=
  match s.evq with
  | [] => answer 0#2 0#32 s
  | e :: rest => answer 0#2 (eventValue e) (s.popped e rest)

/-- EVENT_COUNT (R148). -/
def execEventCount (s : State) : Host.Outcome State Fault Refusal :=
  answer 0#2 (BitVec.ofNat 32 s.evq.length) s

/-- READ_RX_BYTE (R150): whatever the slot holds now, valid for a queued event or not (R151). -/
def execReadRxByte (slot : BitVec 2) (offset : BitVec 6) (s : State) : Host.Outcome State Fault Refusal :=
  answer 0#2 (zext32 (s.ringByte slot offset.toNat)) s

/-- GET_STATE (R207). -/
def execGetState (s : State) : Host.Outcome State Fault Refusal := answer 0#2 (zext32 (attachCode s.attach)) s

end Sys2Proof.Machine
end

