-- ==== Sys2Proof/Machine/Dispatch.lean ====
section
/-! DEFINITION. One arm per constructor of Instr. -/

namespace Sys2Proof.Machine

def exec (i : Instr) (s : State) : Host.Outcome State Fault Refusal :=
  match i with
  | .init => Sys2Proof.Machine.execInit s
  | .startSink => Sys2Proof.Machine.execStartSink s
  | .poll => Sys2Proof.Machine.execPoll s
  | .sendMessage header => Sys2Proof.Machine.execSendMessage header s
  | .sendHeaderMessage type rev => Sys2Proof.Machine.execSendHeaderMessage type rev s
  | .hasEvent => Sys2Proof.Machine.execHasEvent s
  | .popEvent => Sys2Proof.Machine.execPopEvent s
  | .getState => Sys2Proof.Machine.execGetState s
  | .getDeviceId => Sys2Proof.Machine.execGetDeviceId s
  | .readRxByte slot offset => Sys2Proof.Machine.execReadRxByte slot offset s
  | .eventCount => Sys2Proof.Machine.execEventCount s
  | .createCtrl type rev => Sys2Proof.Machine.execCreateCtrl type rev s
  | .createData type n rev => Sys2Proof.Machine.execCreateData type n rev s
  | .hdrMessageType header => Sys2Proof.Machine.execHdrMessageType header s
  | .hdrNumDataObjs header => Sys2Proof.Machine.execHdrNumDataObjs header s
  | .hdrSpecRev header => Sys2Proof.Machine.execHdrSpecRev header s
  | .hdrMessageId header => Sys2Proof.Machine.execHdrMessageId header s
  | .hdrExtended header => Sys2Proof.Machine.execHdrExtended header s
  | .hdrDataRole header => Sys2Proof.Machine.execHdrDataRole header s
  | .hdrPowerRole header => Sys2Proof.Machine.execHdrPowerRole header s
  | .tokSop1 => Sys2Proof.Machine.execTokSop1 s
  | .tokSop2 => Sys2Proof.Machine.execTokSop2 s
  | .tokPacksym len => Sys2Proof.Machine.execTokPacksym len s
  | .tokJamCrc => Sys2Proof.Machine.execTokJamCrc s
  | .tokEop => Sys2Proof.Machine.execTokEop s
  | .tokTxoff => Sys2Proof.Machine.execTokTxoff s
  | .tokTxon => Sys2Proof.Machine.execTokTxon s
  | .rxTokenSop low => Sys2Proof.Machine.execRxTokenSop low s

end Sys2Proof.Machine
end

