-- ==== Sys2Proof/Decode.lean ====
section
/-! DEFINITION. The decoder, total on every presented word or byte and refusing by name, and after it the encoder,
both written from the tables of R101, R103, R120 and R124. -/

namespace Sys2Proof

/-- Why nothing is decoded. The first two are ILLEGAL_COMMAND (R108). -/
inductive DecodeError where
  /-- The opcode is not in R101. -/
  | reservedOpcode (opcode : Byte)
  /-- A bit that R103 shows as 0 is set. -/
  | reservedBits (w : Word)
  /-- A byte of the TX stream that is none of the seven tokens of R120. -/
  | notATxToken (b : Byte)
  /-- A frame token that fails the test of R124. -/
  | notSop (b : Byte)
deriving DecidableEq, Repr

/-! The fields of R103. -/

/-- `cmd[7:0]`. -/
def opcodeOf (w : Word) : Byte := w.extractLsb' 0 8
/-- Format H: `header = cmd[23:8]`. -/
def headerField (w : Word) : Header := w.extractLsb' 8 16
/-- Formats T and D: `type = cmd[12:8]`. -/
def typeField (w : Word) : BitVec 5 := w.extractLsb' 8 5
/-- Formats T and D: `rev = cmd[14:13]`. -/
def revField (w : Word) : BitVec 2 := w.extractLsb' 13 2
/-- Format D: `n = cmd[17:15]`. -/
def countField (w : Word) : BitVec 3 := w.extractLsb' 15 3
/-- Format X: `slot = cmd[9:8]`. -/
def slotField (w : Word) : BitVec 2 := w.extractLsb' 8 2
/-- Format X: `offset = cmd[15:10]`. -/
def offsetField (w : Word) : BitVec 6 := w.extractLsb' 10 6

/-- The instruction, if the reserved bits of its format are zero (R103, R108). -/
def ifReservedZero (clear : Bool) (w : Word) (i : Instr) : Except DecodeError Instr :=
  if clear then .ok i else .error (.reservedBits w)

/-- Format N: `cmd[31:8] = 0`. -/
def formatN (w : Word) (i : Instr) : Except DecodeError Instr := ifReservedZero (w.extractLsb' 8 24 == 0#24) w i
/-- Format H: `cmd[31:24] = 0`. -/
def formatH (w : Word) (i : Instr) : Except DecodeError Instr := ifReservedZero (w.extractLsb' 24 8 == 0#8) w i
/-- Format T: `cmd[31:15] = 0`. -/
def formatT (w : Word) (i : Instr) : Except DecodeError Instr := ifReservedZero (w.extractLsb' 15 17 == 0#17) w i
/-- Format D: `cmd[31:18] = 0`. -/
def formatD (w : Word) (i : Instr) : Except DecodeError Instr := ifReservedZero (w.extractLsb' 18 14 == 0#14) w i
/-- Format X: `cmd[31:16] = 0`. -/
def formatX (w : Word) (i : Instr) : Except DecodeError Instr := ifReservedZero (w.extractLsb' 16 16 == 0#16) w i

/-- The opcode map of R101. -/
def decodeCommand (w : Word) : Except DecodeError Instr :=
  match (opcodeOf w).toNat with
  | 0x01 => formatN w .init
  | 0x02 => formatN w .startSink
  | 0x03 => formatN w .poll
  | 0x04 => formatH w (.sendMessage (headerField w))
  | 0x05 => formatT w (.sendHeaderMessage (typeField w) (revField w))
  | 0x06 => formatN w .hasEvent
  | 0x07 => formatN w .popEvent
  | 0x08 => formatN w .getState
  | 0x09 => formatN w .getDeviceId
  | 0x0A => formatX w (.readRxByte (slotField w) (offsetField w))
  | 0x0B => formatN w .eventCount
  | 0x10 => formatT w (.createCtrl (typeField w) (revField w))
  | 0x11 => formatD w (.createData (typeField w) (countField w) (revField w))
  | 0x12 => formatH w (.hdrMessageType (headerField w))
  | 0x13 => formatH w (.hdrNumDataObjs (headerField w))
  | 0x14 => formatH w (.hdrSpecRev (headerField w))
  | 0x15 => formatH w (.hdrMessageId (headerField w))
  | 0x16 => formatH w (.hdrExtended (headerField w))
  | 0x17 => formatH w (.hdrDataRole (headerField w))
  | 0x18 => formatH w (.hdrPowerRole (headerField w))
  | _ => .error (.reservedOpcode (opcodeOf w))

/-- The tokens of R120 and the PACKSYM form of R121 (bits 7..5 are 100). -/
def decodeTxToken (b : Byte) : Except DecodeError Instr :=
  if b = Machine.tokSop1Byte then .ok .tokSop1
  else if b = Machine.tokSop2Byte then .ok .tokSop2
  else if b = Machine.tokJamCrcByte then .ok .tokJamCrc
  else if b = Machine.tokEopByte then .ok .tokEop
  else if b = Machine.tokTxoffByte then .ok .tokTxoff
  else if b = Machine.tokTxonByte then .ok .tokTxon
  else if b &&& 0xE0#8 = Machine.tokPacksymBase then .ok (.tokPacksym (b.extractLsb' 0 5))
  else .error (.notATxToken b)

/-- The one test of R124. -/
def decodeRxToken (b : Byte) : Except DecodeError Instr :=
  if Machine.isSopToken b then .ok (.rxTokenSop (b.extractLsb' 0 5)) else .error (.notSop b)

/-- The decoder: each port has its own encoding (R100). -/
def decode : Fetch → Except DecodeError Instr
  | .command w => decodeCommand w
  | .txToken b => decodeTxToken b
  | .rxToken b => decodeRxToken b

/-! The encoder, field by field from the top bit down as in the rows of R103. -/

/-- Format N: `0[31:8]`, opcode. -/
def encodeN (opcode : Byte) : Fetch := .command (0#24 ++ opcode)
/-- Format H: `0[31:24]`, header, opcode. -/
def encodeH (opcode : Byte) (header : Header) : Fetch := .command (0#8 ++ header ++ opcode)
/-- Format T: `0[31:15]`, rev, type, opcode. -/
def encodeT (opcode : Byte) (type : BitVec 5) (rev : BitVec 2) : Fetch := .command (0#17 ++ rev ++ type ++ opcode)
/-- Format D: `0[31:18]`, n, rev, type, opcode. -/
def encodeD (opcode : Byte) (type : BitVec 5) (n : BitVec 3) (rev : BitVec 2) : Fetch :=
  .command (0#14 ++ n ++ rev ++ type ++ opcode)
/-- Format X: `0[31:16]`, offset, slot, opcode. -/
def encodeX (opcode : Byte) (slot : BitVec 2) (offset : BitVec 6) : Fetch :=
  .command (0#16 ++ offset ++ slot ++ opcode)

/-- The word or byte of an instruction, on its own port. -/
def encode : Instr → Fetch
  | .init => encodeN 0x01#8
  | .startSink => encodeN 0x02#8
  | .poll => encodeN 0x03#8
  | .sendMessage header => encodeH 0x04#8 header
  | .sendHeaderMessage type rev => encodeT 0x05#8 type rev
  | .hasEvent => encodeN 0x06#8
  | .popEvent => encodeN 0x07#8
  | .getState => encodeN 0x08#8
  | .getDeviceId => encodeN 0x09#8
  | .readRxByte slot offset => encodeX 0x0A#8 slot offset
  | .eventCount => encodeN 0x0B#8
  | .createCtrl type rev => encodeT 0x10#8 type rev
  | .createData type n rev => encodeD 0x11#8 type n rev
  | .hdrMessageType header => encodeH 0x12#8 header
  | .hdrNumDataObjs header => encodeH 0x13#8 header
  | .hdrSpecRev header => encodeH 0x14#8 header
  | .hdrMessageId header => encodeH 0x15#8 header
  | .hdrExtended header => encodeH 0x16#8 header
  | .hdrDataRole header => encodeH 0x17#8 header
  | .hdrPowerRole header => encodeH 0x18#8 header
  | .tokSop1 => .txToken Machine.tokSop1Byte
  | .tokSop2 => .txToken Machine.tokSop2Byte
  | .tokPacksym len => .txToken (0b100#3 ++ len)
  | .tokJamCrc => .txToken Machine.tokJamCrcByte
  | .tokEop => .txToken Machine.tokEopByte
  | .tokTxoff => .txToken Machine.tokTxoffByte
  | .tokTxon => .txToken Machine.tokTxonByte
  | .rxTokenSop low => .rxToken (0b111#3 ++ low)

/-- The pseudo-instruction `send_header_message(t)`, which expands to SEND_HEADER_MESSAGE with `DEFAULT_SPEC_REV`
(R127). -/
def pseudoSendHeaderMessage (type : BitVec 5) : Instr := .sendHeaderMessage type Config.defaultSpecRev

/-- What is presented for an opcode-table row whose bits are `w`, `nbits` wide: an 8-bit row is a TX token where it
is one, else an RX token; every other row is a command word (log 8). -/
def fetchOfTableWord (nbits w : Nat) : Fetch :=
  if nbits = 8 then
    match decodeTxToken (BitVec.ofNat 8 w) with
    | .ok _ => .txToken (BitVec.ofNat 8 w)
    | .error _ => .rxToken (BitVec.ofNat 8 w)
  else .command (BitVec.ofNat 32 w)

/-- The instruction the decoder reads from an opcode-table row's word, none where it refuses. -/
def decodeTableWord (nbits w : Nat) : Option Instr :=
  match decode (fetchOfTableWord nbits w) with
  | .ok i => some i
  | .error _ => none

end Sys2Proof
end

