-- ==== Sys2Proof/Machine/Fetch.lean ====
section
/-! DEFINITION. What a step is given and what happens where nothing is decoded: taking a request, ILLEGAL_COMMAND
(R108), a non-SOP frame token (R223), a byte that is no TX token. -/

namespace Sys2Proof.Machine

/-- The bits of a request, on its own port. -/
def Request.fetch : Request → Fetch
  | .command w _ => .command w
  | .txToken b => .txToken b
  | .rxToken b => .rxToken b

/-- Take a request off the inbox; a command brings the payload port with it (R105). -/
def State.take (s : State) (r : Request) (rest : List Request) : State :=
  match r with
  | .command _ payload => { s with inbox := rest, payloadPort := payload }
  | .txToken _ => { s with inbox := rest }
  | .rxToken _ => { s with inbox := rest }

/-- ILLEGAL_COMMAND: response `(1, 0)` and no effect (R108, R360). -/
def illegalCommand (s : State) : Host.Outcome State Fault Refusal := answer 1#2 0#32 s

/-- A frame that begins with a non-SOP token: it is dropped and the RX FIFO flushed (R223). -/
def nonSopFrame (token : Byte) (s : State) : Host.Outcome State Fault Refusal :=
  complete s (deframe (s.begin.presentToken token)).2

/-- What a step does where the decoder refuses. -/
def onDecodeError (e : DecodeError) (s : State) : Host.Outcome State Fault Refusal :=
  match e with
  | .reservedOpcode _ => illegalCommand s
  | .reservedBits _ => illegalCommand s
  | .notATxToken b => .refused (.notATxToken b)
  | .notSop b => nonSopFrame b s

/-- The request that presents an opcode-table row's word (log 8, log 17). -/
def requestOfTableWord (s : State) (nbits w : Nat) : Request :=
  match fetchOfTableWord nbits w with
  | .command c => .command c s.payloadPort
  | .txToken b => .txToken b
  | .rxToken b => .rxToken b

end Sys2Proof.Machine
end

