-- ==== Sys2Proof/Machine/Step.lean ====
section
/-! DEFINITION. One step: the next request of the inbox is decoded and run (R22). With an empty inbox the block waits
and nothing changes (R392). -/

namespace Sys2Proof.Machine

/-- One step. -/
def step (s : State) : Host.Outcome State Fault Refusal :=
  match s.inbox with
  | [] => .next s
  | r :: rest =>
    match decode r.fetch with
    | .ok i => exec i (s.take r rest)
    | .error e => onDecodeError e (s.take r rest)

/-- The state in which the very next step runs an opcode-table row's word: the word is presented in front of the inbox,
with the payload port as it stands (log 17). -/
def State.withFetchWord (s : State) (nbits w : Nat) : State :=
  { s with inbox := requestOfTableWord s nbits w :: s.inbox }

end Sys2Proof.Machine
end

