-- ==== Sys2Proof/Machine/I2cWire.lean ====
section
/-! DEFINITION. The bit layer of the I2C master (47_i2c_master.md R322, R340, R341): what each bus symbol of a step's
`wire` is on SCL and SDA. No other rule depends on it (R340); it carries no times (R342). -/

namespace Sys2Proof.Machine

/-- An open-drain line: what the master and the target do to it (R322). -/
structure Wire where
  master : Drive
  target : Drive
deriving DecidableEq, Repr

/-- The level either side reads: the pull-up takes the line high where nobody drives it low (R322). -/
def Wire.high (w : Wire) : Bool := w.master == .release && w.target == .release

/-- One phase of the two lines (R322). -/
structure Phase where
  scl : Wire
  sda : Wire
deriving DecidableEq, Repr

/-- The level of SCL (R322). -/
def Phase.sclHigh (p : Phase) : Bool := p.scl.high

/-- The level of SDA (R322). -/
def Phase.sdaHigh (p : Phase) : Bool := p.sda.high

/-- The master has released SCL and reads it low: the target stretches the clock (R341). -/
def Phase.stretched (p : Phase) : Bool := p.scl.master == .release && !p.sclHigh

/-- A line that the master alone drives low. -/
def Wire.masterLow : Wire := ⟨.low, .release⟩

/-- A line that nobody drives low. -/
def Wire.released : Wire := ⟨.release, .release⟩

/-- A bit on an open-drain line: 1 releases it, 0 drives it low. -/
def driveOf (bit : Bool) : Drive := if bit then .release else .low

/-- The bits of a byte, most significant first (R71, R340). -/
def bitsMsbFirst (b : Byte) : List Bool := [b.getLsbD 7, b.getLsbD 6, b.getLsbD 5, b.getLsbD 4, b.getLsbD 3,
  b.getLsbD 2, b.getLsbD 1, b.getLsbD 0]

/-- The master releases SCL and goes on once it reads high: the target may hold it low for `stretch` phases first (R341).
SDA stands meanwhile. -/
def sclRise (stretch : Nat) (sda : Wire) : List Phase :=
  List.replicate stretch ⟨⟨.release, .low⟩, sda⟩ ++ [⟨Wire.released, sda⟩]

/-- One clock: SDA changes while SCL is low and is sampled while SCL is high (R340). -/
def clockBit (stretch : Nat) (sda : Wire) : List Phase :=
  ⟨Wire.masterLow, sda⟩ :: sclRise stretch sda ++ [⟨Wire.masterLow, sda⟩]

/-- Clocks one after the other; `stretch k` is how long the target stretches the `k`-th. -/
def clocks (stretch : Nat → Nat) : List Wire → List Phase
  | [] => []
  | sda :: rest => clockBit (stretch 0) sda ++ clocks (fun k => stretch (k + 1)) rest

/-- SDA in the nine clocks of a byte: the sender's bits, then its receiver's acknowledge, low for ACK (R340). -/
def byteWires : BusSym → List Wire
  | .sent b ack => (bitsMsbFirst b).map (fun bit => ⟨driveOf bit, .release⟩) ++ [⟨.release, driveOf !ack⟩]
  | .received b ack => (bitsMsbFirst b).map (fun bit => ⟨.release, driveOf bit⟩) ++ [⟨driveOf !ack, .release⟩]
  | .start => []
  | .restart => []
  | .stop => []

/-- The phases of a symbol (R340, R341). -/
def BusSym.phases (stretch : Nat → Nat) (sym : BusSym) : List Phase :=
  match sym with
  | .start => [⟨Wire.released, Wire.released⟩, ⟨Wire.released, Wire.masterLow⟩, ⟨Wire.masterLow, Wire.masterLow⟩]
  | .restart => ⟨Wire.masterLow, Wire.released⟩ :: sclRise (stretch 0) Wire.released
    ++ [⟨Wire.released, Wire.masterLow⟩, ⟨Wire.masterLow, Wire.masterLow⟩]
  | .stop => ⟨Wire.masterLow, Wire.masterLow⟩ :: sclRise (stretch 0) Wire.masterLow ++ [⟨Wire.released, Wire.released⟩]
  | .sent b ack => clocks stretch (byteWires (.sent b ack))
  | .received b ack => clocks stretch (byteWires (.received b ack))

/-- The whole wave of a run of symbols; `stretch n` is how the target stretches the clocks of the `n`-th. -/
def wave (stretch : Nat → Nat → Nat) : List BusSym → List Phase
  | [] => []
  | sym :: rest => sym.phases (stretch 0) ++ wave (fun n => stretch (n + 1)) rest

/-- What the receiver of the wave samples: SDA at each phase where SCL is high, after it was low. -/
def sampledBits : Bool → List Phase → List Bool
  | _, [] => []
  | wasHigh, p :: rest =>
    if p.sclHigh && !wasHigh then p.sdaHigh :: sampledBits true rest else sampledBits p.sclHigh rest

end Sys2Proof.Machine
end

