-- ==== Sys2Proof/Safety.lean ====
section
/-! DEFINITION. What counts as a good state and a safe run: the invariants of R41, the canonical form of the stored bytes,
the idle bus of R328, and the host's duty over RX slot handles (R151, R402). Then the terms claims are made in: what a
step does with the environment's answers left out, what the environment is about to answer, the frames of a drain. -/

namespace Sys2Proof.Machine

/-- The invariants R41 lists; its last, that every queued slot is below `RX_SLOTS`, is in the type of `Event`. -/
abbrev AttachInv (s : State) : Prop :=
  (s.measCc ≠ none → s.attach = .usb20) ∧
  (s.attach = .usbPd → s.timerActive = false) ∧
  (s.attach = .usbPdWait ∨ s.attach = .usbRetryWait → s.timerActive = true) ∧
  s.evq.length ≤ Config.queueDepth

/-- What R192 derives: while the timer runs in `Usb20` a line is being measured. -/
abbrev LineInv (s : State) : Prop := s.attach = .usb20 → s.timerActive = true → s.measCc ≠ none

/-- The stored bytes are in canonical form and inside their address spaces (R60), the token stream is inside `tx_buf`,
and the bus is idle between steps (R328). -/
abbrev StorageInv (s : State) : Prop :=
  (s.rxRing.wf = true ∧ s.rxRing.below (Config.rxSlots * Config.rxSlotBytes) = true) ∧
  (s.txBuf.wf = true ∧ s.txBuf.below Config.txBufBytes = true) ∧
  (s.chipRegs.wf = true ∧ s.chipRegs.below 256 = true) ∧
  s.txPos ≤ Config.txBufBytes ∧
  s.lines = Lines.idle

/-- The next request is not a frame token presented while the block is in `Usb20`, where the block itself never runs the
deframer (R201, R220, log 21). -/
abbrev NoFrameTokenInUsb20 (s : State) : Prop := ∀ b rest, s.inbox = .rxToken b :: rest → s.attach ≠ .usb20

/-- The handle the host popped last for a slot still names the bytes the slot holds (R151). DESIGN CHOICE (log 14): where the
host holds no handle of the slot, because no `MessageReceived` of it was popped, nothing is fresh. -/
def handleFresh (s : State) (slot : BitVec 2) : Bool := s.held[slot.toNat] == some (s.generation slot)

/-- The host's duty at READ_RX_BYTE: the slot's handle is fresh (R402, U4). The hardware does not check it. R151 and U4 name
only a handle whose generation has moved on, and R398 lets the host read any slot at any time; that a read of a slot without
any popped handle breaches the duty too is the model's DESIGN CHOICE (log 14). -/
def keepsReadDuty (i : Instr) (s : State) : Bool :=
  match i with
  | .readRxByte slot _ => handleFresh s slot
  | _ => true

/-- A step that has an end state: no fault, no refusal. -/
def goesOn (o : Host.Outcome State Fault Refusal) : Bool :=
  match o with
  | .next _ => true
  | .fault _ => false
  | .refused _ => false

/-! What a step does. -/

/-- An entry of a trace with the environment's part left out: a transaction with the bytes it writes or the number it
reads, a pulse, a sample, a delay, a condition. -/
inductive Doing where
  | write (reg : Byte) (bytes : List Byte)
  | read (reg : Byte) (count : Nat)
  | pulse
  | intN
  | millis
  | delay
  | raise (condition : Condition)
deriving DecidableEq, Repr

/-- The entry without draws; a bus error is the environment's doing and is left out. -/
def Act.doing : Act → Option Doing
  | .write reg bytes _ => some (.write reg bytes)
  | .read reg bytes _ => some (.read reg bytes.length)
  | .pulse => some .pulse
  | .intN _ => some .intN
  | .millis _ => some .millis
  | .delay _ _ => some .delay
  | .raise (.transientBusError _ _) => none
  | .raise c => some (.raise c)

/-- What a trace does, in order. -/
def doings (trace : List Act) : List Doing := trace.filterMap Act.doing

/-- Whether an entry is an I2C transaction. -/
def Doing.isTransaction : Doing → Bool
  | .write _ _ => true
  | .read _ _ => true
  | .pulse => false
  | .intN => false
  | .millis => false
  | .delay => false
  | .raise _ => false

/-- Whether an entry is a condition. -/
def Doing.isCondition : Doing → Bool
  | .raise _ => true
  | .write _ _ => false
  | .read _ _ => false
  | .pulse => false
  | .intN => false
  | .millis => false
  | .delay => false

/-- Whether an entry is a FramingError (R361, R364). -/
def Doing.isFramingError : Doing → Bool
  | .raise (.notSop _) => true
  | .raise (.badCrc _) => true
  | .raise (.transientBusError _ _) => false
  | .raise .protocolTimeout => false
  | .raise .chipHardReset => false
  | .raise (.queueOverflow _) => false
  | .raise .retryFail => false
  | .write _ _ => false
  | .read _ _ => false
  | .pulse => false
  | .intN => false
  | .millis => false
  | .delay => false

/-- The I2C transactions of a trace, in order (R23). -/
def transactions (trace : List Act) : List Doing := (doings trace).filter Doing.isTransaction

/-- The conditions of a trace but bus errors, in the order met (R375). -/
def conditions (trace : List Act) : List Doing := (doings trace).filter Doing.isCondition

/-- Whether an entry is a TransientBusError (R362). -/
def Act.isBusError : Act → Bool
  | .raise (.transientBusError _ _) => true
  | .raise _ => false
  | .write _ _ _ => false
  | .read _ _ _ => false
  | .pulse => false
  | .intN _ => false
  | .millis _ => false
  | .delay _ _ => false

/-- The error of a transaction that was not acknowledged whole: a write sends its address, the register and its bytes, a
read three bytes (R325, R326, R330). -/
def Act.busError : Act → List Act
  | .write reg bytes acked => if acked = bytes.length + 2 then [] else [.raise (.transientBusError reg .write)]
  | .read reg _ acked => if acked = 3 then [] else [.raise (.transientBusError reg .read)]
  | .pulse => []
  | .intN _ => []
  | .millis _ => []
  | .delay _ _ => []
  | .raise _ => []

/-- TransientBusError stands in a trace right after each transaction that was not acknowledged whole, and nowhere else
(R330, R362). -/
def BusErrorsRecorded (trace : List Act) : Prop :=
  trace = (trace.filter fun a => !a.isBusError).flatMap fun a => a :: a.busError

/-! What the environment is about to answer. -/

/-- The `k`-th byte the FUSB302B will return from here, `k` from 0 (R24). -/
def State.chipByte (s : State) (k : Nat) : Byte := (Input.skip k s.chipIn).value Config.freeChipByte

/-- The target acknowledges the next `n` bytes the master sends (R330). -/
def AllAcked (n : Nat) (s : State) : Prop := Input.values Config.freeAck n s.ackIn = List.replicate n true

/-- The target acknowledges the next `n` bytes and not the one after them (R330). -/
def NackAt (n : Nat) (s : State) : Prop := Input.values Config.freeAck (n + 1) s.ackIn = List.replicate n true ++ [false]

/-- `timer_expired()` of R283 in numbers: the timer runs and the next sample is less than 2^27 ms past it, modulo 2^32. -/
def Expired (s : State) : Prop :=
  s.timerActive = true ∧ (s.millisNow.toNat + 2 ^ 32 - s.timerExp.toNat) % 2 ^ 32 < 2 ^ 27

/-! The frames of a drain. -/

/-- One SOP frame as a drain reads it: the STATUS1 byte before it, the frame, the STATUS0 byte after it (R222, R125). -/
structure RxFrame where
  status1 : Byte
  token   : Byte
  low     : Byte
  high    : Byte
  /-- Payload and CRC. -/
  body    : List Byte
  status0 : Byte
deriving DecidableEq, Repr

/-- The bytes the chip returns for a frame, in the order they are read (R222). -/
def RxFrame.chip (f : RxFrame) : List Byte := [f.status1, f.token, f.low, f.high] ++ f.body ++ [f.status0]

/-- The header as a number (R224). -/
def RxFrame.headerNat (f : RxFrame) : Nat := f.low.toNat + 256 * f.high.toNat

/-- Its number of data objects (R165). -/
def RxFrame.objects (f : RxFrame) : Nat := f.headerNat / 4096 % 8

/-- The frame is read as an SOP frame: RX_EMPTY clear, an SOP token, `4n + 4` bytes of payload and CRC (R222, R124). -/
def RxFrame.sop (f : RxFrame) : Bool :=
  f.status1.toNat / 32 % 2 == 0 && f.token.toNat / 32 == 7 && f.body.length == 4 * f.objects + 4

/-- The frame produces an event: CRC_CHK is set and the header is not GoodCRC's (R226, R228, R172). -/
def RxFrame.accepted (f : RxFrame) : Bool :=
  f.status0.toNat / 16 % 2 == 1 && !(f.objects == 0 && f.headerNat % 32 == 1)

/-- A queued event as the host sees it: none for `StateChanged`, header and slot for `MessageReceived` (R140). -/
def Event.shown : Event → Option (Nat × Nat)
  | .stateChanged => none
  | .messageReceived h k _ => some (h.toNat, k.toNat)

end Sys2Proof.Machine
end

