-- ==== Sys2Proof/Certificates/Slice0/Obligations.lean ====
section
/-! DEFINITION. The statements for the provers, one Prop per obligation. Values, layouts and orders are written out from the
rules in numbers. A statement gives its frame as an equation `t = { s with f := t.f, … }`: the fields named are the only ones
that may change. Frames name `trace`, `wire`, `lines` and `resp` wherever a step has outputs (R23), and the fields of the
draws it consumes. What the environment answers is left open everywhere: acknowledge bits, chip bytes and samples are read
from the state's inputs, listed or free (log 1). -/

namespace Sys2Proof.Statements

open Sys2Proof.Machine

/-- The instruction completes with this response and changes nothing else: no traffic, no draw, no event. -/
def Answers (i : Instr) (s : State) (status : BitVec 2) (value : Word) : Prop :=
  exec i s = .next { s with trace := [], wire := [], resp := some ⟨status, value⟩ }

/-- A command word is refused as R108 says: response `(1, 0)` and no effect. -/
def Refused (w : Word) : Prop :=
  ∀ s payload rest, s.inbox = .command w payload :: rest →
    step s = .next { s with
      inbox := rest, payloadPort := payload, trace := [], wire := [], resp := some ⟨1#2, 0#32⟩ }

/-- The words with this opcode and a bit set under this mask of reserved bits are refused. -/
def ReservedRefused (opcode : Byte) (mask : Word) : Prop :=
  ∀ w : Word, w.extractLsb' 0 8 = opcode → w &&& mask ≠ 0#32 → Refused w

/-- Opcodes and reserved bits of R101 and R103. -/
def commandRows : List (Byte × Word) :=
  [(0x01#8, 0xFFFFFF00#32), (0x02#8, 0xFFFFFF00#32), (0x03#8, 0xFFFFFF00#32), (0x04#8, 0xFF000000#32),
   (0x05#8, 0xFFFF8000#32), (0x06#8, 0xFFFFFF00#32), (0x07#8, 0xFFFFFF00#32), (0x08#8, 0xFFFFFF00#32),
   (0x09#8, 0xFFFFFF00#32), (0x0A#8, 0xFFFF0000#32), (0x0B#8, 0xFFFFFF00#32), (0x10#8, 0xFFFF8000#32),
   (0x11#8, 0xFFFC0000#32), (0x12#8, 0xFF000000#32), (0x13#8, 0xFF000000#32), (0x14#8, 0xFF000000#32),
   (0x15#8, 0xFF000000#32), (0x16#8, 0xFF000000#32), (0x17#8, 0xFF000000#32), (0x18#8, 0xFF000000#32)]

/-- A legal command word: its opcode is in the map and its reserved bits are zero (R108). -/
def LegalWord (w : Word) : Prop := ∃ row ∈ commandRows, w.extractLsb' 0 8 = row.1 ∧ w &&& row.2 = 0#32

/-- The header-codec commands, opcodes 0x10 to 0x18 (R160). -/
def isCodec : Instr → Bool
  | .createCtrl _ _ | .createData _ _ _ | .hdrMessageType _ | .hdrNumDataObjs _ | .hdrSpecRev _ | .hdrMessageId _
  | .hdrExtended _ | .hdrDataRole _ | .hdrPowerRole _ => true
  | _ => false

/-- The operand values R109 calls illegal. -/
def IllegalOperand : Instr → Prop
  | .sendHeaderMessage _ rev => rev = 0#2
  | .createCtrl _ rev => rev = 0#2
  | .createData _ n rev => rev = 0#2 ∨ n = 0#3
  | _ => False

/-- Push events one after the other (R141). -/
def pushAll (s : State) (es : List Event) : State := es.foldl State.push s

/-- The responses of so many POP_EVENT commands, and the state after them. -/
def popMany : Nat → State → List (Option Response) × State
  | 0, s => ([], s)
  | n + 1, s =>
    match exec .popEvent s with
    | .next t => (t.resp :: (popMany n t).1, (popMany n t).2)
    | .fault _ => ([], s)
    | .refused _ => ([], s)

/-- The response POP_EVENT gives for an event, in numbers (R107). -/
def popValue : Event → Nat
  | .stateChanged => 3
  | .messageReceived h k _ => h.toNat * 65536 + k.toNat * 16 + 5

/-- What moves the event queue: a push by the block, a POP_EVENT by the host (R141, R142). -/
inductive QueueOp where
  | push (e : Event)
  | pop
deriving DecidableEq, Repr

/-- Whether it is a POP_EVENT. -/
def QueueOp.isPop : QueueOp → Bool
  | .push _ => false
  | .pop => true

/-- The event pushed. -/
def QueueOp.pushed : QueueOp → Option Event
  | .push e => some e
  | .pop => none

/-- The responses of the POP_EVENT commands of a sequence, and the state after it. -/
def queueRun : List QueueOp → State → List (Option Response) × State
  | [], s => ([], s)
  | .push e :: ops, s => queueRun ops (s.push e)
  | .pop :: ops, s =>
    match exec .popEvent s with
    | .next t => (t.resp :: (queueRun ops t).1, (queueRun ops t).2)
    | .fault _ => ([], s)
    | .refused _ => ([], s)

/-- The pushes of a sequence that the queue accepts, told from its length `n` alone: all but those that find six (R141). -/
def acceptedPushes : List QueueOp → Nat → List Event
  | [], _ => []
  | .push e :: ops, n => if n = 6 then acceptedPushes ops n else e :: acceptedPushes ops (n + 1)
  | .pop :: ops, n => acceptedPushes ops (n - 1)

/-- The states after SEND_MESSAGE of each header in turn. -/
def sendAll : List Header → State → List State
  | [], _ => []
  | h :: hs, s =>
    match exec (.sendMessage h) s with
    | .next t => t :: sendAll hs t
    | .fault _ => []
    | .refused _ => []

/-- What the chip bring-up does, in order (R181). -/
def bringupDoings : List Doing :=
  [.write 0x0C#8 [0x03#8], .delay, .write 0x0B#8 [0x07#8], .write 0x0A#8 [0xFF#8], .write 0x0E#8 [0xFF#8],
   .write 0x0F#8 [0x01#8]]

/-- Every delay of a trace lasts at least `ms` (R397). -/
def DelaysAtLeast (ms : Nat) (trace : List Act) : Prop :=
  ∀ entry exit, Act.delay entry exit ∈ trace → ms ≤ (exit - entry).toNat

/-- R397's loop may end with the sample `exit`: the first at least `ms` past `entry`, less than 2^31 past the sample before it
(R24), which is `entry` itself or one in between that falls short of `ms`. -/
def DelayMayEnd (ms entry exit : Word) : Prop :=
  ms.toNat ≤ (exit - entry).toNat ∧ ∃ before : Word, (before - entry).toNat < ms.toNat ∧ (exit - before).toNat < 2 ^ 31

/-- The timer holds the expiry `ms` after the last sample of the step (R281). -/
def TimerArmed (ms : Word) (t : State) : Prop :=
  t.timerActive = true ∧ ∃ m, t.trace.getLast? = some (.millis m) ∧ t.timerExp = m + ms

/-- The token stream of a header value `h` and payload bytes, with `n` data objects (R122). -/
def streamBytes (h n : Nat) (payload : List Byte) : List Byte :=
  [0x12#8, 0x12#8, 0x12#8, 0x13#8, BitVec.ofNat 8 (128 + (4 * n + 2)), BitVec.ofNat 8 (h % 256), BitVec.ofNat 8 (h / 256)]
    ++ payload ++ [0xFF#8, 0x14#8, 0xFE#8, 0xA1#8]

/-- What the start of an interrupt pass does: INT_N, the three reads, then I_RETRYFAIL and I_TXSENT (R220, R221, R256). -/
def passHead (interrupta status1 : Byte) : List Doing :=
  [.intN, .read 0x42#8 1, .read 0x3E#8 1, .read 0x3F#8 1]
    ++ (if interrupta.toNat / 16 % 2 = 1 then [.raise .retryFail] else [])
    ++ (if interrupta.toNat / 4 % 2 = 1 then
          .read 0x41#8 1 :: (if status1.toNat / 8 % 2 = 1 then [.write 0x0B#8 [0x07#8]] else [])
        else [])

/-- A POLL whose interrupt pass drains these frames: INT_N is low outside `Usb20`, I_HARDRST is clear, a drain trigger is
set, and the chip returns the three interrupt bytes, a STATUS1 byte if I_TXSENT is set, the frames, then `ending` (R220,
R222). -/
def DrainPoll (s : State) (interrupt interrupta interruptb : Byte) (txStatus : List Byte) (frames : List RxFrame)
    (ending rest : List Byte) : Prop :=
  s.attach ≠ .usb20 ∧ s.intNLow = true ∧ s.sclHold = none ∧ s.evq.length ≤ 6 ∧
  s.chipIn.pending = [interrupt, interrupta, interruptb] ++ txStatus ++ frames.flatMap RxFrame.chip ++ ending ++ rest ∧
  interrupta.toNat % 2 = 0 ∧ txStatus.length = interrupta.toNat / 4 % 2 ∧
  (interrupt.toNat / 64 % 2 = 1 ∨ interrupt.toNat / 16 % 2 = 1 ∨ interruptb.toNat % 2 = 1) ∧
  ∀ f ∈ frames, f.sop = true

/-- What the frames of a drain read, one after the other (R222). -/
def frameReads (f : RxFrame) : List Doing :=
  [.read 0x41#8 1, .read 0x43#8 3, .read 0x43#8 (4 * f.objects + 4), .read 0x40#8 1]

/-- How a drain ends after its frames: a STATUS1 byte with RX_EMPTY set, or one frame more whose token is not an SOP token;
what the block does then and the framing error it records (R222, R223). -/
def DrainEnds (ending : List Byte) (does errors : List Doing) : Prop :=
  (∃ last : Byte, ending = [last] ∧ last.toNat / 32 % 2 = 1 ∧ does = [.read 0x41#8 1] ∧ errors = []) ∨
  ∃ status1 token x y : Byte, ending = [status1, token, x, y] ∧ status1.toNat / 32 % 2 = 0 ∧ token.toNat / 32 ≠ 7 ∧
    does = [.read 0x41#8 1, .read 0x43#8 3, .write 0x07#8 [0x04#8]] ∧ errors = [.raise (.notSop token)]

/-- `rx_ring` after a drain: each frame's payload and CRC at offset 0 of the slot the index then names; an accepted frame
moves the index on (R225, R232). -/
def ringAfter (slot : BitVec 2) : List RxFrame → (BitVec 2 → Nat → Byte) → BitVec 2 → Nat → Byte
  | [], ring => ring
  | f :: fs, ring =>
    ringAfter (if f.accepted then slot + 1#2 else slot) fs
      (fun k o => if k = slot ∧ o < f.body.length then f.body.getD o 0#8 else ring k o)

/-- The events a drain pushes, as the host sees them: `StateChanged` first where the block was not in `UsbPd`, then one
`MessageReceived` for each accepted frame, in order (R231, R232, R233). -/
def pushedByDrain (s : State) (accepted : List RxFrame) : List (Option (Nat × Nat)) :=
  (if accepted ≠ [] ∧ s.attach ≠ .usbPd then [none] else [])
    ++ accepted.mapIdx fun j f => some (f.headerNat, (s.rxIdx.toNat + j) % 4)

/-- Everything a drain of these frames changes in the block (R222 to R233); of a push into a full queue nothing stays
(R141). -/
def DrainEffect (s t : State) (frames : List RxFrame) : Prop :=
  let accepted := frames.filter RxFrame.accepted
  t.attach = (if accepted = [] then s.attach else .usbPd) ∧
  t.timerActive = (if accepted ≠ [] ∧ s.attach ≠ .usbPd then false else s.timerActive) ∧
  t.evq.map Event.shown = (s.evq.map Event.shown ++ pushedByDrain s accepted).take 6 ∧
  t.rxIdx = s.rxIdx + BitVec.ofNat 2 accepted.length ∧
  ∀ slot offset, offset < 64 → t.ringByte slot offset = ringAfter s.rxIdx frames s.ringByte slot offset

/-- A drain changes no other field but outputs and draws (and the ghost generations, log 14). -/
def DrainFrame (s t : State) : Prop :=
  t = { s with
    attach := t.attach, timerActive := t.timerActive, evq := t.evq, rxIdx := t.rxIdx, rxRing := t.rxRing,
    slotGen := t.slotGen, resp := t.resp, trace := t.trace, wire := t.wire, lines := Lines.idle,
    chipRegs := t.chipRegs, chipIn := t.chipIn, intNIn := t.intNIn, ackIn := t.ackIn }

/-- Two states that agree in everything but the TX scratch buffer and the framer's place in it. -/
def SameButTxBuf (s s' : State) : Prop := s' = { s with txBuf := s'.txBuf, txPos := s'.txPos }

/-- Two outcomes that agree in everything but the TX scratch buffer. -/
def SameOutcome : Host.Outcome State Fault Refusal → Host.Outcome State Fault Refusal → Prop
  | .next t, .next t' => SameButTxBuf t t'
  | .fault f, .fault f' => f = f'
  | .refused r, .refused r' => r = r'
  | _, _ => False

/-- The bits of a byte, most significant first (R71). -/
def msbFirst (b : Byte) : List Bool := (List.range 8).map fun j => b.toNat / 2 ^ (7 - j) % 2 == 1

/-- The levels of SCL and SDA in a phase (R322). -/
def levels (p : Phase) : Bool × Bool := (p.sclHigh, p.sdaHigh)

/-- The queued handles carry generations their slots have reached (R151). -/
def HandlesInv (s : State) : Prop :=
  ∀ h k g, Event.messageReceived h k g ∈ s.evq → g ≤ s.generation k

end Sys2Proof.Statements

open Sys2Proof Sys2Proof.Machine Sys2Proof.Statements

/-! ## Encodings and the step -/

/-- The encoder loses nothing: decoding any instruction's word gives it back with every operand (R101, R103, R120, R124). -/
def Obligations.DecodeOfEncode : Prop := ∀ i : Instr, decode (encode i) = .ok i

/-- Each word has one meaning: a word that decodes is the word of the instruction it decodes to. -/
def Obligations.EncodeOfDecode : Prop := ∀ (f : Fetch) (i : Instr), decode f = .ok i → encode i = f

/-- R129, word for word. -/
def Obligations.WorkedEncodings : Prop :=
  decode (.command 0x00000003#32) = .ok .poll ∧
  decode (.command 0x00104204#32) = .ok (.sendMessage 0x1042#16) ∧
  decode (.command 0x00004D05#32) = .ok (.sendHeaderMessage 0x0D#5 2#2) ∧
  decode (.command 0x0000C211#32) = .ok (.createData 0x02#5 1#3 2#2) ∧
  decode (.command 0x00004110#32) = .ok (.createCtrl 0x01#5 2#2) ∧
  decode (.command 0x0000150A#32) = .ok (.readRxByte 1#2 5#6) ∧
  decode (.command 0x00118112#32) = .ok (.hdrMessageType 0x1181#16)

/-- The token bytes (R120, R121) and the one test on an RX token (R124). -/
def Obligations.TokenDecoding : Prop :=
  decode (.txToken 0x12#8) = .ok .tokSop1 ∧ decode (.txToken 0x13#8) = .ok .tokSop2 ∧
  decode (.txToken 0xFF#8) = .ok .tokJamCrc ∧ decode (.txToken 0x14#8) = .ok .tokEop ∧
  decode (.txToken 0xFE#8) = .ok .tokTxoff ∧ decode (.txToken 0xA1#8) = .ok .tokTxon ∧
  (∀ n : Fin 8, decode (.txToken (BitVec.ofNat 8 (0x80 + (4 * n + 2)))) = .ok (.tokPacksym (BitVec.ofNat 5 (4 * n + 2)))) ∧
  (∀ b : Byte, decode (.rxToken b) =
    if b.toNat / 32 = 7 then .ok (.rxTokenSop (BitVec.ofNat 5 (b.toNat % 32))) else .error (.notSop b))

/-- R108: a reserved opcode or a reserved bit is refused with no effect; every other word is an instruction. -/
def Obligations.IllegalCommandHasNoEffect : Prop :=
  ∀ w : Word, (¬ LegalWord w → Refused w) ∧ (LegalWord w → ∃ i, decode (.command w) = .ok i ∧ i.isCommand = true)

/-- R109: exactly the listed operand values answer `(2, 0)`, with no effect; a command with any other operand answers
status 0 when it ends. -/
def Obligations.IllegalOperandHasNoEffect : Prop :=
  ∀ (i : Instr) (s : State),
    (IllegalOperand i → Answers i s 2#2 0#32) ∧
    (i.isCommand = true → ¬ IllegalOperand i → ∀ t, exec i s = .next t → ∃ v, t.resp = some ⟨0#2, v⟩)

/-- R106: every command word that ends has one response; status 3 does not occur, the value is 0 where the status is not,
and the commands that return nothing answer `(0, 0)`. -/
def Obligations.EveryCommandResponds : Prop :=
  (∀ s t w payload rest, s.inbox = .command w payload :: rest → step s = .next t →
    ∃ r, t.resp = some r ∧ r.status ≠ 3#2 ∧ (r.status ≠ 0#2 → r.value = 0#32)) ∧
  (∀ i s t, exec i s = .next t →
    (i = .init ∨ i = .startSink ∨ i = .poll ∨ (∃ h, i = .sendMessage h) ∨
      ∃ type rev, rev ≠ 0#2 ∧ i = .sendHeaderMessage type rev) → t.resp = some ⟨0#2, 0#32⟩)

/-- A step takes the next request and runs the instruction it decodes to; a command brings its payload port (R105); with no
request nothing happens (R392). -/
def Obligations.StepRunsDecodedInstruction : Prop :=
  (∀ s w payload rest i, s.inbox = .command w payload :: rest → decode (.command w) = .ok i →
    step s = exec i { s with inbox := rest, payloadPort := payload }) ∧
  (∀ s b rest i, s.inbox = .txToken b :: rest → decode (.txToken b) = .ok i → step s = exec i { s with inbox := rest }) ∧
  (∀ s b rest i, s.inbox = .rxToken b :: rest → decode (.rxToken b) = .ok i → step s = exec i { s with inbox := rest }) ∧
  (∀ s, s.inbox = [] → step s = .next s)

/-! ## The header codec -/

/-- R160: a codec command's response depends on its operands alone, and nothing else happens. -/
def Obligations.CodecCommandsArePure : Prop :=
  ∀ i, isCodec i = true → ∃ status value, ∀ s, Answers i s status value

/-- R161: CREATE_CTRL. -/
def Obligations.CreateCtrlResult : Prop :=
  (∀ type rev, decode (.command (0#17 ++ rev ++ type ++ 0x10#8)) = .ok (.createCtrl type rev)) ∧
  ReservedRefused 0x10#8 0xFFFF8000#32 ∧
  ∀ (type : BitVec 5) (rev : BitVec 2) (s : State),
    (rev = 0#2 → Answers (.createCtrl type rev) s 2#2 0#32) ∧
    (rev ≠ 0#2 → Answers (.createCtrl type rev) s 0#2 (BitVec.ofNat 32 (type.toNat + 64 * (rev.toNat - 1))))

/-- R162: CREATE_DATA. -/
def Obligations.CreateDataResult : Prop :=
  (∀ type n rev, decode (.command (0#14 ++ n ++ rev ++ type ++ 0x11#8)) = .ok (.createData type n rev)) ∧
  ReservedRefused 0x11#8 0xFFFC0000#32 ∧
  ∀ (type : BitVec 5) (n : BitVec 3) (rev : BitVec 2) (s : State),
    (rev = 0#2 ∨ n = 0#3 → Answers (.createData type n rev) s 2#2 0#32) ∧
    (rev ≠ 0#2 → n ≠ 0#3 →
      Answers (.createData type n rev) s 0#2
        (BitVec.ofNat 32 (type.toNat + 64 * (rev.toNat - 1) + 4096 * n.toNat)))

/-- R165 to R171: the seven extractors, field by field. -/
def Obligations.HeaderFieldResults : Prop :=
  (∀ header,
    decode (.command (0#8 ++ header ++ 0x12#8)) = .ok (.hdrMessageType header) ∧
    decode (.command (0#8 ++ header ++ 0x13#8)) = .ok (.hdrNumDataObjs header) ∧
    decode (.command (0#8 ++ header ++ 0x14#8)) = .ok (.hdrSpecRev header) ∧
    decode (.command (0#8 ++ header ++ 0x15#8)) = .ok (.hdrMessageId header) ∧
    decode (.command (0#8 ++ header ++ 0x16#8)) = .ok (.hdrExtended header) ∧
    decode (.command (0#8 ++ header ++ 0x17#8)) = .ok (.hdrDataRole header) ∧
    decode (.command (0#8 ++ header ++ 0x18#8)) = .ok (.hdrPowerRole header)) ∧
  (∀ opcode ∈ [0x12#8, 0x13#8, 0x14#8, 0x15#8, 0x16#8, 0x17#8, 0x18#8], ReservedRefused opcode 0xFF000000#32) ∧
  ∀ (header : Header) (s : State),
    let h := header.toNat
    Answers (.hdrMessageType header) s 0#2
      (BitVec.ofNat 32 (if h / 4096 % 8 = 0 then h % 32 else 128 + h % 32)) ∧
    Answers (.hdrNumDataObjs header) s 0#2 (BitVec.ofNat 32 (h / 4096 % 8)) ∧
    Answers (.hdrSpecRev header) s 0#2 (BitVec.ofNat 32 (h / 64 % 4 + 1)) ∧
    Answers (.hdrMessageId header) s 0#2 (BitVec.ofNat 32 (h / 512 % 8)) ∧
    Answers (.hdrExtended header) s 0#2 (BitVec.ofNat 32 (h / 32768)) ∧
    Answers (.hdrDataRole header) s 0#2 (BitVec.ofNat 32 (h / 32 % 2)) ∧
    Answers (.hdrPowerRole header) s 0#2 (BitVec.ofNat 32 (h / 256 % 2))

/-- R173: the codec laws the source states. -/
def Obligations.CodecRoundTrips : Prop :=
  (∀ (type : BitVec 5) (rev : BitVec 2), rev ≠ 0#2 →
    messageType (createCtrl type rev) = type.setWidth 8 ∧ specRev (createCtrl type rev) = rev.setWidth 8) ∧
  (∀ (type : BitVec 5) (n : BitVec 3) (rev : BitVec 2), rev ≠ 0#2 → n ≠ 0#3 →
    numDataObjs (createData type n rev) = n ∧ messageType (createData type n rev) = 0x80#8 ||| type.setWidth 8) ∧
  ∀ h : Header, (messageType h).getLsbD 7 = true ↔ 1 ≤ (numDataObjs h).toNat

/-- R172: the GoodCRC test. -/
def Obligations.GoodCrcTest : Prop :=
  ∀ h : Header, isGoodCrc h = true ↔ h.toNat / 4096 % 8 = 0 ∧ h.toNat % 32 = 1

/-! ## The event queue and the RX ring -/

/-- R146, R148: HAS_EVENT and EVENT_COUNT. -/
def Obligations.HasEventAndCountResults : Prop :=
  decode (.command 0x00000006#32) = .ok .hasEvent ∧ decode (.command 0x0000000B#32) = .ok .eventCount ∧
  ReservedRefused 0x06#8 0xFFFFFF00#32 ∧ ReservedRefused 0x0B#8 0xFFFFFF00#32 ∧
  ∀ s : State,
    (s.evq = [] → Answers .hasEvent s 0#2 0#32) ∧ (s.evq ≠ [] → Answers .hasEvent s 0#2 1#32) ∧
    Answers .eventCount s 0#2 (BitVec.ofNat 32 s.evq.length)

/-- R147: POP_EVENT returns and removes the oldest event (the model's ghost `held` apart, log 14); an empty queue answers
`(0, 0)` and changes nothing. -/
def Obligations.PopEventResult : Prop :=
  decode (.command 0x00000007#32) = .ok .popEvent ∧ ReservedRefused 0x07#8 0xFFFFFF00#32 ∧
  ∀ s : State,
    (s.evq = [] → Answers .popEvent s 0#2 0#32) ∧
    (∀ rest, s.evq = .stateChanged :: rest →
      exec .popEvent s = .next { s with evq := rest, trace := [], wire := [], resp := some ⟨0#2, 3#32⟩ }) ∧
    (∀ h k g rest, s.evq = .messageReceived h k g :: rest →
      ∃ t, exec .popEvent s = .next t ∧
        t = { s with
          evq := rest, held := t.held, trace := [], wire := [],
          resp := some ⟨0#2, BitVec.ofNat 32 (h.toNat * 65536 + k.toNat * 16 + 5)⟩ })

/-- R141: a push enqueues at the end; into a full queue it records QueueOverflow and changes nothing else. -/
def Obligations.PushEnqueuesOrDrops : Prop :=
  ∀ (s : State) (e : Event),
    (s.evq.length ≠ 6 → s.push e = { s with evq := s.evq ++ [e] }) ∧
    (s.evq.length = 6 → s.push e = { s with trace := s.trace ++ [.raise (.queueOverflow e)] })

/-- R142: up to six pushes into an empty queue come out of POP_EVENT in the order they went in, and of more pushes the
first six. In any sequence of pushes and POP_EVENT commands, from any queue, every command answers; the events answered, then
those still queued, are the events queued at first and then the accepted pushes, in order; of a sequence from an empty
queue with at most six pushes every push is accepted. -/
def Obligations.QueueKeepsOrder : Prop :=
  (∀ (s : State) (es : List Event), s.evq = [] →
    (pushAll s es).evq = es.take 6 ∧
    (popMany (min es.length 6) (pushAll s es)).1
      = (es.take 6).map (fun e => some ⟨0#2, BitVec.ofNat 32 (popValue e)⟩) ∧
    (popMany (min es.length 6) (pushAll s es)).2.evq = []) ∧
  ∀ (s : State) (ops : List QueueOp),
    let run := queueRun ops s
    run.1.length = ops.countP QueueOp.isPop ∧
    run.1.filter (· ≠ some ⟨0#2, 0#32⟩) ++ run.2.evq.map (fun e => some ⟨0#2, BitVec.ofNat 32 (popValue e)⟩)
      = (s.evq ++ acceptedPushes ops s.evq.length).map (fun e => some ⟨0#2, BitVec.ofNat 32 (popValue e)⟩) ∧
    (s.evq = [] → (ops.filterMap QueueOp.pushed).length ≤ 6 →
      run.1.filter (· ≠ some ⟨0#2, 0#32⟩) ++ run.2.evq.map (fun e => some ⟨0#2, BitVec.ofNat 32 (popValue e)⟩)
        = (ops.filterMap QueueOp.pushed).map (fun e => some ⟨0#2, BitVec.ofNat 32 (popValue e)⟩))

/-- R150: READ_RX_BYTE answers the byte the slot holds now, whatever the queue holds; of a byte never written it answers some
byte. -/
def Obligations.ReadRxByteResult : Prop :=
  (∀ slot offset, decode (.command (0#16 ++ offset ++ slot ++ 0x0A#8)) = .ok (.readRxByte slot offset)) ∧
  ReservedRefused 0x0A#8 0xFFFF0000#32 ∧
  ∀ (slot : BitVec 2) (offset : BitVec 6) (s : State),
    (∀ b, s.rxRing.read (64 * slot.toNat + offset.toNat) = some b →
      Answers (.readRxByte slot offset) s 0#2 (BitVec.ofNat 32 b.toNat)) ∧
    (s.rxRing.read (64 * slot.toNat + offset.toNat) = none →
      ∃ b : Byte, Answers (.readRxByte slot offset) s 0#2 (BitVec.ofNat 32 b.toNat))

/-- R207: GET_STATE. -/
def Obligations.GetStateResult : Prop :=
  decode (.command 0x00000008#32) = .ok .getState ∧ ReservedRefused 0x08#8 0xFFFFFF00#32 ∧
  ∀ s : State,
    (s.attach = .usb20 → Answers .getState s 0#2 0#32) ∧ (s.attach = .usbPdWait → Answers .getState s 0#2 1#32) ∧
    (s.attach = .usbPd → Answers .getState s 0#2 2#32) ∧ (s.attach = .usbRetryWait → Answers .getState s 0#2 3#32)

/-- R151, with the ghost counter it describes (log 14): in every step a slot's counter never goes back, and while it stands
the slot's 64 bytes stand; the handles in the queue never run ahead of their slots, and a popped handle is the host's. -/
def Obligations.SlotBytesStandWhileGenerationStands : Prop :=
  ∀ s t, step s = .next t →
    (∀ k, s.generation k ≤ t.generation k ∧
      (t.generation k = s.generation k → ∀ o, o < 64 → t.ringByte k o = s.ringByte k o)) ∧
    (HandlesInv s → HandlesInv t) ∧
    (∀ h k g rest payload requests, s.evq = .messageReceived h k g :: rest →
      s.inbox = .command 0x00000007#32 payload :: requests → t.held[k.toNat] = some g)

/-! ## Attach state machine -/

/-- R182, R181, R49: INIT, from any state and whatever the chip acknowledges. -/
def Obligations.InitResult : Prop :=
  decode (.command 0x00000001#32) = .ok .init ∧ ReservedRefused 0x01#8 0xFFFFFF00#32 ∧
  ∀ s : State, s.sclHold = none →
    ∃ t, exec .init s = .next t ∧
      t = { s with
        attach := .usb20, measCc := none, timerActive := false, nextMessageId := 0#3, rxIdx := 0#2, evq := [],
        resp := some ⟨0#2, 0#32⟩, trace := t.trace, wire := t.wire, lines := Lines.idle, chipRegs := t.chipRegs,
        lastMillis := t.lastMillis, millisIn := t.millisIn, ackIn := t.ackIn } ∧
      doings t.trace = bringupDoings ∧ DelaysAtLeast 10 t.trace ∧ BusErrorsRecorded t.trace

/-- R47, R393: the model's record of the chip's registers (log 13) after INIT, START_SINK, SEND_MESSAGE and the TX-sent
power-down, where the chip acknowledges every byte. -/
def Obligations.ChipRegistersAfterCommands : Prop :=
  (∀ s : State, s.sclHold = none → AllAcked 15 s →
    ∃ t, exec .init s = .next t ∧ busBytes t.wire = 15 ∧ t.chipRegs.read 0x0B = some 0x07#8 ∧
      t.chipRegs.read 0x0A = some 0xFF#8 ∧ t.chipRegs.read 0x0E = some 0xFF#8 ∧ t.chipRegs.read 0x0F = some 0x01#8 ∧
      ∀ reg, reg ∉ [0x0B, 0x0A, 0x0E, 0x0F] → t.chipRegs.read reg = none) ∧
  (∀ s : State, s.sclHold = none → AllAcked 3 s →
    ∃ t, exec .startSink s = .next t ∧ t.chipRegs.read 0x02 = some 0x07#8 ∧
      ∀ reg, reg ≠ 0x02 → t.chipRegs.read reg = s.chipRegs.read reg) ∧
  (∀ (s : State) (h : Header), s.sclHold = none → AllAcked 3 s →
    ∃ t, exec (.sendMessage h) s = .next t ∧ t.chipRegs.read 0x0B = some 0x0F#8 ∧
      ∀ reg, reg ≠ 0x0B → t.chipRegs.read reg = s.chipRegs.read reg) ∧
  (∀ s : State, AllAcked 6 s → (s.chipByte 0).toNat / 8 % 2 = 1 →
    (txSent s).chipRegs.read 0x0B = some 0x07#8 ∧
    ∀ reg, reg ≠ 0x0B → (txSent s).chipRegs.read reg = s.chipRegs.read reg) ∧
  (∀ s : State, (s.chipByte 0).toNat / 8 % 2 = 0 → (txSent s).chipRegs = s.chipRegs)

/-- R190: START_SINK, from any state. -/
def Obligations.StartSinkResult : Prop :=
  decode (.command 0x00000002#32) = .ok .startSink ∧ ReservedRefused 0x02#8 0xFFFFFF00#32 ∧
  ∀ s : State, s.sclHold = none →
    ∃ t, exec .startSink s = .next t ∧
      t = { s with
        attach := .usb20, measCc := some .cc1, timerActive := true, timerExp := t.timerExp, resp := some ⟨0#2, 0#32⟩,
        trace := t.trace, wire := t.wire, lines := Lines.idle, chipRegs := t.chipRegs, lastMillis := t.lastMillis,
        millisIn := t.millisIn, ackIn := t.ackIn } ∧
      doings t.trace = [.write 0x02#8 [0x07#8], .millis] ∧ TimerArmed 10#32 t ∧ BusErrorsRecorded t.trace

/-- R208: GET_DEVICE_ID answers the byte the chip returns and changes no state. -/
def Obligations.GetDeviceIdResult : Prop :=
  decode (.command 0x00000009#32) = .ok .getDeviceId ∧ ReservedRefused 0x09#8 0xFFFFFF00#32 ∧
  ∀ s : State, s.sclHold = none →
    ∃ t, exec .getDeviceId s = .next t ∧
      t = { s with
        resp := some ⟨0#2, BitVec.ofNat 32 (s.chipByte 0).toNat⟩, trace := t.trace, wire := t.wire,
        lines := Lines.idle, chipIn := t.chipIn, ackIn := t.ackIn } ∧
      doings t.trace = [.read 0x01#8 1] ∧ BusErrorsRecorded t.trace

/-- R201: a POLL that finds INT_N high (or does not sample it, in `Usb20`) and nothing to act on takes its samples and
changes nothing. -/
def Obligations.PollWithNothingToDo : Prop :=
  ∀ s : State, (s.attach = .usb20 ∨ s.intNLow = false) → (¬ Expired s ∨ s.attach = .usbPd) →
    exec .poll s = .next { s with
      resp := some ⟨0#2, 0#32⟩, wire := [],
      trace := (if s.attach = .usb20 then [] else [.intN false])
        ++ (if s.timerActive then [.millis s.millisNow] else []),
      intNIn := if s.attach = .usb20 then s.intNIn else s.intNIn.next,
      millisIn := if s.timerActive then s.millisIn.next else s.millisIn,
      lastMillis := if s.timerActive then some s.millisNow else s.lastMillis }

/-- R192, R191: the measurement expires and shows no level: the other line is measured next. -/
def Obligations.PollFlipsLine : Prop :=
  ∀ (s : State) (c : Cc), s.attach = .usb20 → s.measCc = some c → Expired s → (s.chipByte 0).toNat % 4 = 0 →
    s.sclHold = none →
    ∃ t, exec .poll s = .next t ∧
      t = { s with
        measCc := some (match c with | .cc1 => .cc2 | .cc2 => .cc1), timerExp := t.timerExp,
        resp := some ⟨0#2, 0#32⟩, trace := t.trace, wire := t.wire, lines := Lines.idle, chipRegs := t.chipRegs,
        lastMillis := t.lastMillis, millisIn := t.millisIn, chipIn := t.chipIn, ackIn := t.ackIn } ∧
      doings t.trace = [.millis, .read 0x40#8 1,
        .write 0x02#8 [match c with | .cc1 => 0x0B#8 | .cc2 => 0x07#8], .millis] ∧
      TimerArmed 10#32 t

/-- R194: the measurement expires and shows a level: PD communication on that line. -/
def Obligations.PollEntersPdWait : Prop :=
  ∀ (s : State) (c : Cc), s.attach = .usb20 → s.measCc = some c → Expired s → (s.chipByte 0).toNat % 4 ≠ 0 →
    s.sclHold = none →
    ∃ t, exec .poll s = .next t ∧
      t = { s with
        attach := .usbPdWait, measCc := none, intNMode := .input, timerExp := t.timerExp, resp := some ⟨0#2, 0#32⟩,
        trace := t.trace, wire := t.wire, lines := Lines.idle, chipRegs := t.chipRegs, lastMillis := t.lastMillis,
        millisIn := t.millisIn, chipIn := t.chipIn, ackIn := t.ackIn } ∧
      doings t.trace = [.millis, .read 0x40#8 1, .pulse, .write 0x09#8 [0x07#8], .write 0x0A#8 [0xAF#8],
        .write 0x0E#8 [0xEA#8], .write 0x0F#8 [0x00#8],
        .write 0x03#8 [match c with | .cc1 => 0x25#8 | .cc2 => 0x26#8], .write 0x06#8 [0x00#8], .millis] ∧
      TimerArmed 300#32 t

/-- R47: the chip registers at the entry into `UsbPdWait`, where the chip acknowledges every byte. -/
def Obligations.PdWaitChipRegisters : Prop :=
  ∀ (s : State) (c : Cc), s.attach = .usb20 → s.measCc = some c → Expired s → (s.chipByte 0).toNat % 4 ≠ 0 →
    s.sclHold = none → AllAcked 21 s →
    ∃ t, exec .poll s = .next t ∧ busBytes t.wire = 22 ∧ t.chipRegs.read 0x09 = some 0x07#8 ∧
      t.chipRegs.read 0x0A = some 0xAF#8 ∧ t.chipRegs.read 0x0E = some 0xEA#8 ∧ t.chipRegs.read 0x0F = some 0x00#8 ∧
      t.chipRegs.read 0x03 = some (match c with | .cc1 => 0x25#8 | .cc2 => 0x26#8) ∧
      t.chipRegs.read 0x06 = some 0x00#8 ∧
      ∀ reg, reg ∉ [0x09, 0x0A, 0x0E, 0x0F, 0x03, 0x06] → t.chipRegs.read reg = s.chipRegs.read reg

/-- R363, R196, R201: the timer expires in `UsbPdWait` with INT_N high: ProtocolTimeout, then the retry wait. -/
def Obligations.PollPdWaitTimeout : Prop :=
  ∀ s : State, s.attach = .usbPdWait → s.intNLow = false → Expired s → s.sclHold = none →
    ∃ t, exec .poll s = .next t ∧
      t = { s with
        attach := .usbRetryWait, measCc := none, timerActive := true, timerExp := t.timerExp, nextMessageId := 0#3,
        rxIdx := 0#2, evq := [.stateChanged], resp := some ⟨0#2, 0#32⟩, trace := t.trace, wire := t.wire,
        lines := Lines.idle, chipRegs := t.chipRegs, lastMillis := t.lastMillis, millisIn := t.millisIn,
        intNIn := t.intNIn, ackIn := t.ackIn } ∧
      doings t.trace = [.intN, .millis, .raise .protocolTimeout] ++ bringupDoings ++ [.millis] ∧
      DelaysAtLeast 10 t.trace ∧ TimerArmed 500#32 t

/-- R197: the retry wait expires with INT_N high: CC polling starts again, and no event is pushed. -/
def Obligations.PollRetryWaitExpiry : Prop :=
  ∀ s : State, s.attach = .usbRetryWait → s.intNLow = false → Expired s → s.sclHold = none →
    ∃ t, exec .poll s = .next t ∧
      t = { s with
        attach := .usb20, measCc := some .cc1, timerExp := t.timerExp, resp := some ⟨0#2, 0#32⟩, trace := t.trace,
        wire := t.wire, lines := Lines.idle, chipRegs := t.chipRegs, lastMillis := t.lastMillis,
        millisIn := t.millisIn, intNIn := t.intNIn, ackIn := t.ackIn } ∧
      doings t.trace = [.intN, .millis, .write 0x02#8 [0x07#8], .millis] ∧ TimerArmed 10#32 t

/-- R365, R196, R374: INT_N low outside `Usb20` and I_HARDRST set: the retry wait, whatever else is set and whether or not
the timer has expired. -/
def Obligations.PollHardReset : Prop :=
  ∀ s : State, s.attach ≠ .usb20 → s.intNLow = true → (s.chipByte 1).toNat % 2 = 1 → s.sclHold = none →
    ∃ t, exec .poll s = .next t ∧
      t = { s with
        attach := .usbRetryWait, measCc := none, timerActive := true, timerExp := t.timerExp, nextMessageId := 0#3,
        rxIdx := 0#2, evq := [.stateChanged], resp := some ⟨0#2, 0#32⟩, trace := t.trace, wire := t.wire,
        lines := Lines.idle, chipRegs := t.chipRegs, lastMillis := t.lastMillis, millisIn := t.millisIn,
        chipIn := t.chipIn, intNIn := t.intNIn, ackIn := t.ackIn } ∧
      doings t.trace = [.intN, .read 0x42#8 1, .read 0x3E#8 1, .read 0x3F#8 1, .raise .chipHardReset]
        ++ bringupDoings ++ [.millis] ∧
      DelaysAtLeast 10 t.trace ∧ TimerArmed 500#32 t

/-- R180, R42: only INIT, START_SINK and POLL move the attach state, the timer, the measured line or the pin mode, and only
INIT and POLL the RX index; no command but POLL writes the RX ring. -/
def Obligations.AttachMovesOnlyIn : Prop :=
  ∀ (i : Instr) (s t : State), i.isCommand = true → exec i s = .next t →
    (i ≠ .init → i ≠ .startSink → i ≠ .poll →
      t.attach = s.attach ∧ t.measCc = s.measCc ∧ t.timerActive = s.timerActive ∧ t.timerExp = s.timerExp) ∧
    (i ≠ .poll → t.intNMode = s.intNMode ∧ t.rxRing = s.rxRing ∧ t.slotGen = s.slotGen) ∧
    (i ≠ .init → i ≠ .poll → t.rxIdx = s.rxIdx)

/-- R200, R198: what a POLL may do to the attach state, and the events and timer of each move. -/
def Obligations.PollTransitions : Prop :=
  ∀ s t : State, exec .poll s = .next t →
    (s.attach = .usb20 → t.attach = .usb20 ∨ t.attach = .usbPdWait) ∧
    (s.attach = .usbPdWait → t.attach = .usbPdWait ∨ t.attach = .usbRetryWait ∨ t.attach = .usbPd) ∧
    (s.attach = .usbPd → t.attach = .usbPd ∨ t.attach = .usbRetryWait) ∧
    (s.attach = .usbRetryWait → t.attach = .usbRetryWait ∨ t.attach = .usb20 ∨ t.attach = .usbPd) ∧
    (t.attach = .usbRetryWait → s.attach ≠ .usbRetryWait → t.evq = [.stateChanged] ∧ TimerArmed 500#32 t) ∧
    (t.attach = .usbPdWait → s.attach ≠ .usbPdWait → t.evq = s.evq ∧ TimerArmed 300#32 t) ∧
    (t.attach = .usb20 → s.attach ≠ .usb20 → t.evq = s.evq ∧ TimerArmed 10#32 t ∧ t.measCc = some .cc1) ∧
    (t.attach = .usbPd → s.attach ≠ .usbPd → t.timerActive = false ∧
      (s.evq.length < 6 → t.evq[s.evq.length]? = some .stateChanged))

/-! ## The interrupt pass and the drain -/

/-- R220, R221, R256: an interrupt pass without hard reset and without a drain trigger. I_RETRYFAIL is only recorded;
I_TXSENT reads STATUS1 and, where TX_EMPTY is set, switches the oscillator off; no event, no state. -/
def Obligations.InterruptWithoutDrain : Prop :=
  ∀ s : State, s.attach ≠ .usb20 → s.intNLow = true → (s.chipByte 1).toNat % 2 = 0 →
    (s.chipByte 0).toNat / 64 % 2 = 0 → (s.chipByte 0).toNat / 16 % 2 = 0 → (s.chipByte 2).toNat % 2 = 0 →
    s.sclHold = none →
    ∃ t, exec .poll s = .next t ∧
      t = { s with
        resp := some ⟨0#2, 0#32⟩, trace := t.trace, wire := t.wire, lines := Lines.idle, chipRegs := t.chipRegs,
        chipIn := t.chipIn, intNIn := t.intNIn, ackIn := t.ackIn } ∧
      doings t.trace = passHead (s.chipByte 1) (s.chipByte 3)

/-- R222 to R232: the drain as one fold over the frames the chip returns, ended by RX_EMPTY or by a frame whose token is not
an SOP token. -/
def Obligations.DrainFollowsFrames : Prop :=
  ∀ (s : State) (i ia ib : Byte) (tx : List Byte) (frames : List RxFrame) (ending rest : List Byte)
    (does errors : List Doing),
    DrainPoll s i ia ib tx frames ending rest → DrainEnds ending does errors →
    ∃ t, exec .poll s = .next t ∧ DrainFrame s t ∧ DrainEffect s t frames ∧ t.resp = some ⟨0#2, 0#32⟩ ∧
      t.chipIn.pending = rest ∧
      transactions t.trace = (passHead ia (tx.headD 0#8)).filter Doing.isTransaction
        ++ frames.flatMap frameReads ++ does ∧
      (conditions t.trace).filter Doing.isFramingError
        = (frames.filter (fun f => f.status0.toNat / 16 % 2 = 0)).map (fun f => .raise (.badCrc (BitVec.ofNat 16 f.headerNat)))
          ++ errors

/-- R223: a drain that meets a frame whose token is not an SOP token: the frames before it have their effect, the RX FIFO
is flushed and the drain ends; the bytes after the three read stay in the chip. -/
def Obligations.NonSopEndsDrain : Prop :=
  ∀ (s : State) (i ia ib : Byte) (tx : List Byte) (frames : List RxFrame) (status1 token x y : Byte) (rest : List Byte),
    DrainPoll s i ia ib tx frames [status1, token, x, y] rest → status1.toNat / 32 % 2 = 0 → token.toNat / 32 ≠ 7 →
    ∃ t, exec .poll s = .next t ∧ DrainFrame s t ∧ DrainEffect s t frames ∧ t.resp = some ⟨0#2, 0#32⟩ ∧
      t.chipIn.pending = rest ∧
      transactions t.trace = (passHead ia (tx.headD 0#8)).filter Doing.isTransaction
        ++ frames.flatMap frameReads ++ [.read 0x41#8 1, .read 0x43#8 3, .write 0x07#8 [0x04#8]] ∧
      (conditions t.trace).getLast? = some (.raise (.notSop token))

/-- R227, R228: a drain of one frame that CRC_CHK or the GoodCRC filter discards: BadCrc is recorded or nothing is, the slot
bytes are overwritten, and no event, index, state or timer moves. -/
def Obligations.DiscardedFrame : Prop :=
  ∀ (s : State) (i ia ib : Byte) (tx : List Byte) (f : RxFrame) (last : Byte) (rest : List Byte),
    DrainPoll s i ia ib tx [f] [last] rest → last.toNat / 32 % 2 = 1 → f.accepted = false →
    ∃ t, exec .poll s = .next t ∧
      t = { s with
        rxRing := t.rxRing, slotGen := t.slotGen, resp := some ⟨0#2, 0#32⟩, trace := t.trace, wire := t.wire,
        lines := Lines.idle, chipRegs := t.chipRegs, chipIn := t.chipIn, intNIn := t.intNIn, ackIn := t.ackIn } ∧
      t.chipIn.pending = rest ∧
      (∀ o, o < 4 * f.objects + 4 → t.ringByte s.rxIdx o = f.body.getD o 0#8) ∧
      (∀ k o, o < 64 → k ≠ s.rxIdx ∨ 4 * f.objects + 4 ≤ o → t.ringByte k o = s.ringByte k o) ∧
      conditions t.trace = (if ia.toNat / 16 % 2 = 1 then [.raise .retryFail] else [])
        ++ (if f.status0.toNat / 16 % 2 = 0 then [.raise (.badCrc (BitVec.ofNat 16 f.headerNat))] else [])

/-- R231, R232, R366: a drain of one accepted frame: `StateChanged` where the state was not `UsbPd`, `MessageReceived` with
the slot the frame was stored in, the index moved on; what does not fit in the queue is dropped and recorded. -/
def Obligations.AcceptedFrame : Prop :=
  ∀ (s : State) (i ia ib : Byte) (tx : List Byte) (f : RxFrame) (last : Byte) (rest : List Byte),
    DrainPoll s i ia ib tx [f] [last] rest → last.toNat / 32 % 2 = 1 → f.accepted = true →
    ∃ t, exec .poll s = .next t ∧
      let events := (if s.attach = .usbPd then [] else [Event.stateChanged])
        ++ [.messageReceived (BitVec.ofNat 16 f.headerNat) s.rxIdx (s.generation s.rxIdx + 1)]
      t = { s with
        attach := .usbPd, timerActive := if s.attach = .usbPd then s.timerActive else false,
        evq := s.evq ++ events.take (6 - s.evq.length), rxIdx := s.rxIdx + 1#2, rxRing := t.rxRing,
        slotGen := t.slotGen, resp := some ⟨0#2, 0#32⟩, trace := t.trace, wire := t.wire, lines := Lines.idle,
        chipRegs := t.chipRegs, chipIn := t.chipIn, intNIn := t.intNIn, ackIn := t.ackIn } ∧
      (∀ o, o < 4 * f.objects + 4 → t.ringByte s.rxIdx o = f.body.getD o 0#8) ∧
      (∀ k o, o < 64 → k ≠ s.rxIdx ∨ 4 * f.objects + 4 ≤ o → t.ringByte k o = s.ringByte k o) ∧
      conditions t.trace = (if ia.toNat / 16 % 2 = 1 then [.raise .retryFail] else [])
        ++ (events.drop (6 - s.evq.length)).map (fun e => .raise (.queueOverflow e))

/-! ## The timer -/

/-- R283: the expiry window; an inactive timer is not expired and takes no sample; testing changes neither field. -/
def Obligations.TimerExpiryWindow : Prop :=
  ∀ s : State,
    (s.timerActive = false → s.timerExpired = false ∧ s.afterTimerCheck = s) ∧
    (s.timerActive = true →
      (s.timerExpired = true ↔ (s.millisNow.toNat + 2 ^ 32 - s.timerExp.toNat) % 2 ^ 32 < 2 ^ 27) ∧
      s.afterTimerCheck = { s with
        trace := s.trace ++ [.millis s.millisNow], lastMillis := s.afterTimerCheck.lastMillis,
        millisIn := s.afterTimerCheck.millisIn })

/-- R281, R288: a timer of `ms` started at a sample reads as expired at a later sample from `ms` to `ms + 2^27` past it, and
as not expired before `ms`. -/
def Obligations.StartedTimerExpires : Prop :=
  ∀ (s u : State) (ms : Word), ms.toNat < 2 ^ 31 →
    u.timerActive = (s.timerStart ms).timerActive → u.timerExp = (s.timerStart ms).timerExp →
    let passed := (u.millisNow.toNat + 2 ^ 32 - s.millisNow.toNat) % 2 ^ 32
    (ms.toNat ≤ passed → passed < ms.toNat + 2 ^ 27 → u.timerExpired = true) ∧
    (passed < ms.toNat → u.timerExpired = false)

/-- R24, R397: every sample is less than 2^31 ms past the one before it, and the exit of a delay is a sample with which its
loop may end; a draw that meets this is the sample (log 2, log 3: of a delay the first and the last sample are shown). -/
def Obligations.SamplesKeepTheCounterRules : Prop :=
  (∀ (s : State) (t0 : Word), s.lastMillis = some t0 →
    (s.millisNow - t0).toNat < 2 ^ 31 ∧
    ((s.millisIn.value Config.freeMillis - t0).toNat < 2 ^ 31 → s.millisNow = s.millisIn.value Config.freeMillis)) ∧
  (∀ s : State, s.sampleMillis.lastMillis = some s.millisNow) ∧
  ∀ (s : State) (ms : Word), 0 < ms.toNat → ms.toNat < 2 ^ 31 →
    ∃ exit, (s.delay ms).trace = s.trace ++ [.delay s.millisNow exit] ∧ (s.delay ms).lastMillis = some exit ∧
      DelayMayEnd ms s.millisNow exit ∧
      (let draw := s.millisIn.next.value Config.freeMillis
       DelayMayEnd ms s.millisNow draw → exit = draw)

/-! ## The transmit path -/

/-- R250, R252, R253: SEND_MESSAGE in any state, whatever the chip acknowledges. -/
def Obligations.SendMessageResult : Prop :=
  (∀ header, decode (.command (0#8 ++ header ++ 0x04#8)) = .ok (.sendMessage header)) ∧
  ReservedRefused 0x04#8 0xFF000000#32 ∧
  ∀ (header : Header) (s : State), s.sclHold = none →
    let n := header.toNat / 4096 % 8
    let stream := streamBytes (header.toNat ||| s.nextMessageId.toNat * 512) n (s.payloadPort.toList.take (4 * n))
    stream.length = 11 + 4 * n ∧
    ∃ t, exec (.sendMessage header) s = .next t ∧
      t = { s with
        nextMessageId := s.nextMessageId + 1#3, txBuf := t.txBuf, txPos := t.txPos, resp := some ⟨0#2, 0#32⟩,
        trace := t.trace, wire := t.wire, lines := Lines.idle, chipRegs := t.chipRegs, ackIn := t.ackIn } ∧
      doings t.trace = [.write 0x0B#8 [0x0F#8], .write 0x43#8 stream] ∧ BusErrorsRecorded t.trace ∧
      (∀ a, a < 11 + 4 * n → t.txByte a = stream.getD a 0#8) ∧
      ∀ a, 11 + 4 * n ≤ a → t.txByte a = s.txByte a

/-- R258: SEND_HEADER_MESSAGE completes and is SEND_MESSAGE of the control header; revision 0 is refused. -/
def Obligations.SendHeaderMessageResult : Prop :=
  (∀ type rev, decode (.command (0#17 ++ rev ++ type ++ 0x05#8)) = .ok (.sendHeaderMessage type rev)) ∧
  ReservedRefused 0x05#8 0xFFFF8000#32 ∧
  ∀ (type : BitVec 5) (rev : BitVec 2) (s : State),
    (rev = 0#2 → Answers (.sendHeaderMessage type rev) s 2#2 0#32) ∧
    (rev ≠ 0#2 → exec (.sendHeaderMessage type rev) s = exec (.sendMessage (createCtrl type rev)) s) ∧
    (rev ≠ 0#2 → s.sclHold = none →
      ∃ t, exec (.sendHeaderMessage type rev) s = .next t ∧
        t = { s with
          nextMessageId := s.nextMessageId + 1#3, txBuf := t.txBuf, txPos := t.txPos, resp := some ⟨0#2, 0#32⟩,
          trace := t.trace, wire := t.wire, lines := Lines.idle, chipRegs := t.chipRegs, ackIn := t.ackIn } ∧
        doings t.trace = [.write 0x0B#8 [0x0F#8],
          .write 0x43#8 (streamBytes (type.toNat + 64 * (rev.toNat - 1) + 512 * s.nextMessageId.toNat) 0 [])])

/-- R254: after INIT, the k-th SEND_MESSAGE of a run of them carries message ID `k mod 8` where the host's headers have ID
bits 0, and leaves the counter one further, acknowledged or not. -/
def Obligations.MessageIdsCycle : Prop :=
  ∀ (s0 s : State) (hs : List Header), s0.sclHold = none → exec .init s0 = .next s →
    (∀ h ∈ hs, h.toNat / 512 % 8 = 0) →
    (sendAll hs s).length = hs.length ∧
    ∀ k t, (sendAll hs s)[k]? = some t →
      t.nextMessageId.toNat = (k + 1) % 8 ∧
      ∃ stream acked, Act.write 0x43#8 stream acked ∈ t.trace ∧ (stream.getD 6 0#8).toNat / 2 % 8 = k % 8

/-- R260: what moves the message-ID counter. -/
def Obligations.MessageIdMoves : Prop :=
  ∀ (i : Instr) (s t : State), i.isCommand = true → exec i s = .next t →
    (i = .init → t.nextMessageId = 0#3) ∧
    ((∃ h, i = .sendMessage h) ∨ (∃ type rev, rev ≠ 0#2 ∧ i = .sendHeaderMessage type rev) →
      t.nextMessageId.toNat = (s.nextMessageId.toNat + 1) % 8) ∧
    (i = .poll → t.nextMessageId = s.nextMessageId ∨ (t.nextMessageId = 0#3 ∧ t.attach = .usbRetryWait)) ∧
    (i ≠ .init → (∀ h, i ≠ .sendMessage h) → (∀ type rev, rev ≠ 0#2 → i ≠ .sendHeaderMessage type rev) → i ≠ .poll →
      t.nextMessageId = s.nextMessageId)

/-- The model's reading of a lone TX token (log 6): its byte of R120 and R121 goes to the next place of `tx_buf`, and nothing
else changes; past the 40 bytes of R60 it stops (log 9). -/
def Obligations.TokensAppend : Prop :=
  ∀ (s : State) (i : Instr) (b : Byte),
    (i, b) ∈ [(.tokSop1, 0x12#8), (.tokSop2, 0x13#8), (.tokJamCrc, 0xFF#8), (.tokEop, 0x14#8), (.tokTxoff, 0xFE#8),
      (.tokTxon, 0xA1#8)] ∨ (∃ len : BitVec 5, i = .tokPacksym len ∧ b = BitVec.ofNat 8 (128 + len.toNat)) →
    (s.txPos < 40 →
      ∃ t, exec i s = .next t ∧
        t = { s with txBuf := t.txBuf, txPos := s.txPos + 1, trace := [], wire := [], resp := none } ∧
        t.txByte s.txPos = b ∧ ∀ a, a ≠ s.txPos → t.txByte a = s.txByte a) ∧
    (40 ≤ s.txPos → exec i s = .fault .txBufferEnd)

/-- The model's reading of a lone SOP frame token (log 7): the deframer reads a frame that begins with it. The frame has the
effect R225 to R232 give a frame of a drain. -/
def Obligations.FrameTokenReceives : Prop :=
  (∀ (s : State) (low : BitVec 5), s.sclHold = none →
    ∃ t, exec (.rxTokenSop low) s = .next t ∧ DrainFrame s t ∧ t.resp = none) ∧
  ∀ (s : State) (low : BitVec 5) (f : RxFrame), s.sclHold = none → s.evq.length ≤ 6 →
    f.sop = true → f.token.toNat = 224 + low.toNat →
    Input.values Config.freeChipByte (f.body.length + 4) ⟨f.token :: s.chipIn.pending, s.chipIn.taken⟩
      = f.token :: f.low :: f.high :: f.body ++ [f.status0] →
    ∃ t, exec (.rxTokenSop low) s = .next t ∧ DrainEffect s t [f] ∧
      transactions t.trace = [.read 0x43#8 3, .read 0x43#8 (4 * f.objects + 4), .read 0x40#8 1]

/-! ## The I2C master -/

/-- R325: a write transaction on the bus; without STOP the next transaction opens with a repeated START. -/
def Obligations.WriteTransaction : Prop :=
  ∀ (s : State) (reg : Byte) (v : List Byte) (endWithStop : Bool), s.lines = Lines.idle → AllAcked (v.length + 2) s →
    let t := s.regWriteEnding endWithStop reg v
    t.wire = s.wire ++ [.start, .sent 0x44#8 true, .sent reg true] ++ v.map (BusSym.sent · true)
      ++ (if endWithStop then [.stop] else []) ∧
    t.trace = s.trace ++ [.write reg v (v.length + 2)] ∧
    (endWithStop = true → t.lines = Lines.idle) ∧
    (endWithStop = false → ∀ reg' v', ∃ more, (t.regWrite reg' v').wire = t.wire ++ .restart :: more) ∧
    (endWithStop = false → ∀ reg' n, ∃ more, (t.regRead reg' n).wire = t.wire ++ .restart :: more)

/-- R326: a read transaction on the bus: the register address, a repeated START, every byte but the last acknowledged. -/
def Obligations.ReadTransaction : Prop :=
  ∀ (s : State) (reg : Byte) (data : List Byte) (last : Byte), s.lines = Lines.idle → AllAcked 3 s →
    Input.values Config.freeChipByte (data.length + 1) s.chipIn = data ++ [last] →
    let t := s.regRead reg (data.length + 1)
    s.readData (data.length + 1) = data ++ [last] ∧
    t.wire = s.wire ++ [.start, .sent 0x44#8 true, .sent reg true, .restart, .sent 0x45#8 true]
      ++ data.map (BusSym.received · true) ++ [.received last false, .stop] ∧
    t.trace = s.trace ++ [.read reg (data ++ [last]) 3] ∧
    t.chipIn = Input.skip (data.length + 1) s.chipIn ∧ t.lines = Lines.idle

/-- R330, R362: after a byte that is not acknowledged the master sends STOP and nothing more of the transaction, records
TransientBusError and changes no block state; what was acknowledged stays written, which the model's record of the chip says
(log 13). In every instruction and in every step that takes a request, a frame that begins with a non-SOP token among them,
the error stands after each such transaction and nowhere else. -/
def Obligations.NackAbandonsTransaction : Prop :=
  (∀ (s : State) (reg : Byte) (v : List Byte) (j : Nat), s.lines = Lines.idle → j < v.length + 2 → NackAt j s →
    let t := s.regWrite reg v
    let bytes := 0x44#8 :: reg :: v
    t = { s with
      wire := s.wire ++ .start :: (bytes.take j).map (BusSym.sent · true) ++ [.sent (bytes.getD j 0#8) false, .stop],
      trace := s.trace ++ [.write reg v j, .raise (.transientBusError reg .write)],
      ackIn := Input.skip (j + 1) s.ackIn, chipRegs := noteWrite reg (v.take (j - 2)) s.chipRegs } ∧
    (j ≤ 2 → t.chipRegs = s.chipRegs) ∧
    (2 < j → reg ≠ 0x0C#8 → reg ≠ 0x43#8 → t.chipRegs.read reg.toNat = (v.take (j - 2)).getLast?) ∧
    ∀ a, a ≠ reg.toNat → reg ≠ 0x0C#8 → t.chipRegs.read a = s.chipRegs.read a) ∧
  (∀ (s : State) (reg : Byte) (n j : Nat), s.lines = Lines.idle → j < 3 → NackAt j s →
    s.regRead reg n = { s with
      wire := s.wire ++ (match j with
        | 0 => [.start, .sent 0x44#8 false, .stop]
        | 1 => [.start, .sent 0x44#8 true, .sent reg false, .stop]
        | _ => [.start, .sent 0x44#8 true, .sent reg true, .restart, .sent 0x45#8 false, .stop]),
      trace := s.trace ++ [.read reg (s.readData n) j, .raise (.transientBusError reg .read)],
      ackIn := Input.skip (j + 1) s.ackIn, chipIn := Input.skip n s.chipIn }) ∧
  (∀ (i : Instr) (s t : State), exec i s = .next t → BusErrorsRecorded t.trace) ∧
  ∀ s t : State, s.inbox ≠ [] → step s = .next t → BusErrorsRecorded t.trace

/-- R327: transaction lengths in bus bytes, and the bytes of INIT, START_SINK and SEND_MESSAGE. -/
def Obligations.BusByteCounts : Prop :=
  (∀ (s : State) (reg : Byte) (v : List Byte), AllAcked (v.length + 2) s →
    busBytes (s.regWrite reg v).wire = busBytes s.wire + (2 + v.length)) ∧
  (∀ (s : State) (reg : Byte) (n : Nat), AllAcked 3 s → busBytes (s.regRead reg n).wire = busBytes s.wire + (3 + n)) ∧
  (∀ s t : State, AllAcked 15 s → exec .init s = .next t → busBytes t.wire = 15) ∧
  (∀ s t : State, AllAcked 3 s → exec .startSink s = .next t → busBytes t.wire = 3) ∧
  (∀ (s t : State) (h : Header), AllAcked (16 + 4 * (h.toNat / 4096 % 8)) s → exec (.sendMessage h) s = .next t →
    busBytes t.wire = 16 + 4 * (h.toNat / 4096 % 8))

/-- R341, U12: a target that holds SCL low for ever after `k` bus bytes stalls the command whose traffic is longer; a
shorter one is not affected. -/
def Obligations.HeldClockStalls : Prop :=
  ∀ (i : Instr) (s t : State) (k : Nat), s.sclHold = none → exec i s = .next t →
    exec i { s with sclHold := some k } =
      if busBytes t.wire ≤ k then .next { t with sclHold := some (k - busBytes t.wire) } else .fault .sclHeldLow

/-- R340, R341, R71: however the target stretches the clock, the receiver of a byte samples its bits most significant first
and its own acknowledge last, START, repeated START and STOP are SDA edges while SCL reads high, and the master goes on as
without stretching once SCL reads high; a phase is stretched only by the target's hold on SCL (R322). -/
def Obligations.BitLayer : Prop :=
  ∀ stretch : Nat → Nat,
    (∀ (b : Byte) (ack : Bool),
      sampledBits false (BusSym.phases stretch (.sent b ack)) = msbFirst b ++ [!ack] ∧
      sampledBits false (BusSym.phases stretch (.received b ack)) = msbFirst b ++ [!ack]) ∧
    ((BusSym.start.phases stretch).take 2).map levels = [(true, true), (true, false)] ∧
    ((BusSym.restart.phases stretch).drop (stretch 0 + 1)).map levels = [(true, true), (true, false), (false, false)] ∧
    ((BusSym.stop.phases stretch).drop (stretch 0 + 1)).map levels = [(true, false), (true, true)] ∧
    ∀ sym : BusSym,
      (sym.phases stretch).filter (fun p => !p.stretched) = sym.phases (fun _ => 0) ∧
      ∀ p ∈ sym.phases stretch, p.stretched = true → p.scl = ⟨.release, .low⟩

/-! ## Reset and invariants -/

/-- R48: the power-on state, in the fields it specifies; it issues no transaction and no pulse (R343). -/
def Obligations.ResetValues : Prop :=
  let s := State.reset
  s.attach = .usb20 ∧ s.measCc = none ∧ s.timerActive = false ∧ s.nextMessageId = 0#3 ∧ s.intNMode = .alternate ∧
  s.rxIdx = 0#2 ∧ s.evq = [] ∧ s.trace = [] ∧ s.wire = [] ∧ s.lines = Lines.idle

/-- The power-on state meets the invariants. -/
def Obligations.ResetMeetsInvariants : Prop :=
  AttachInv State.reset ∧ LineInv State.reset ∧ StorageInv State.reset ∧ HandlesInv State.reset

/-- R41: the invariants hold after every command (and after every other step, but a frame token presented in `Usb20`,
log 21). -/
def Obligations.AttachInvKept : Prop :=
  ∀ s t : State, AttachInv s → NoFrameTokenInUsb20 s → step s = .next t → AttachInv t

/-- R192: while the timer runs in `Usb20` a line is being measured, so POLL always has one to test. -/
def Obligations.LineInvKept : Prop :=
  (∀ s t : State, LineInv s → step s = .next t → LineInv t) ∧
  ∀ s : State, LineInv s → exec .poll s ≠ .fault .measurementWithoutLine

/-- R60, R123, R328: every step keeps the stored bytes in canonical form inside their address spaces, the token stream
inside `tx_buf` and the bus idle. -/
def Obligations.StorageInvKept : Prop :=
  ∀ s t : State, StorageInv s → step s = .next t → StorageInv t

/-- R39: no command reads `tx_buf` back: two states that differ only there give outcomes that differ only there. -/
def Obligations.TxBufIsNotObservable : Prop :=
  ∀ (i : Instr) (s s' : State), i.isCommand = true → SameButTxBuf s s' → SameOutcome (exec i s) (exec i s')
end

