-- ==== Sys2Proof/Laws/State.lean ====
section
/-! SUPPORT. What each shared update of State leaves in every field, so that no proof unfolds a record update. Each theorem
is one conjunction, which simp reads as one rewriting rule per field. -/

namespace Sys2Proof.Machine

@[simp] theorem State.begin_fields (s : State) :
    s.begin.attach = s.attach ∧ s.begin.measCc = s.measCc ∧ s.begin.timerActive = s.timerActive ∧
    s.begin.timerExp = s.timerExp ∧ s.begin.nextMessageId = s.nextMessageId ∧ s.begin.intNMode = s.intNMode ∧
    s.begin.rxIdx = s.rxIdx ∧ s.begin.rxRing = s.rxRing ∧ s.begin.txBuf = s.txBuf ∧ s.begin.evq = s.evq ∧
    s.begin.resp = none ∧ s.begin.trace = [] ∧ s.begin.wire = [] ∧ s.begin.lines = s.lines ∧
    s.begin.txPos = s.txPos ∧ s.begin.chipRegs = s.chipRegs ∧ s.begin.slotGen = s.slotGen ∧ s.begin.held = s.held ∧
    s.begin.lastMillis = s.lastMillis ∧ s.begin.inbox = s.inbox ∧ s.begin.payloadPort = s.payloadPort ∧
    s.begin.chipIn = s.chipIn ∧ s.begin.millisIn = s.millisIn ∧ s.begin.intNIn = s.intNIn ∧
    s.begin.ackIn = s.ackIn ∧ s.begin.sclHold = s.sclHold := by
  refine ⟨?_, ?_, ?_, ?_, ?_, ?_, ?_, ?_, ?_, ?_, ?_, ?_, ?_, ?_, ?_, ?_, ?_, ?_, ?_, ?_, ?_, ?_, ?_, ?_, ?_, ?_⟩ <;> rfl

@[simp] theorem State.record_fields (s : State) (a : Act) :
    (s.record a).attach = s.attach ∧ (s.record a).measCc = s.measCc ∧ (s.record a).timerActive = s.timerActive ∧
    (s.record a).timerExp = s.timerExp ∧ (s.record a).nextMessageId = s.nextMessageId ∧
    (s.record a).intNMode = s.intNMode ∧ (s.record a).rxIdx = s.rxIdx ∧ (s.record a).rxRing = s.rxRing ∧
    (s.record a).txBuf = s.txBuf ∧ (s.record a).evq = s.evq ∧ (s.record a).resp = s.resp ∧
    (s.record a).trace = s.trace ++ [a] ∧ (s.record a).wire = s.wire ∧ (s.record a).lines = s.lines ∧
    (s.record a).txPos = s.txPos ∧ (s.record a).chipRegs = s.chipRegs ∧ (s.record a).slotGen = s.slotGen ∧
    (s.record a).held = s.held ∧ (s.record a).lastMillis = s.lastMillis ∧ (s.record a).inbox = s.inbox ∧
    (s.record a).payloadPort = s.payloadPort ∧ (s.record a).chipIn = s.chipIn ∧
    (s.record a).millisIn = s.millisIn ∧ (s.record a).intNIn = s.intNIn ∧ (s.record a).ackIn = s.ackIn ∧
    (s.record a).sclHold = s.sclHold := by
  refine ⟨?_, ?_, ?_, ?_, ?_, ?_, ?_, ?_, ?_, ?_, ?_, ?_, ?_, ?_, ?_, ?_, ?_, ?_, ?_, ?_, ?_, ?_, ?_, ?_, ?_, ?_⟩ <;> rfl

@[simp] theorem State.raise_fields (s : State) (c : Condition) :
    (s.raise c).attach = s.attach ∧ (s.raise c).measCc = s.measCc ∧ (s.raise c).timerActive = s.timerActive ∧
    (s.raise c).timerExp = s.timerExp ∧ (s.raise c).nextMessageId = s.nextMessageId ∧
    (s.raise c).intNMode = s.intNMode ∧ (s.raise c).rxIdx = s.rxIdx ∧ (s.raise c).rxRing = s.rxRing ∧
    (s.raise c).txBuf = s.txBuf ∧ (s.raise c).evq = s.evq ∧ (s.raise c).resp = s.resp ∧
    (s.raise c).trace = s.trace ++ [.raise c] ∧ (s.raise c).wire = s.wire ∧ (s.raise c).lines = s.lines ∧
    (s.raise c).txPos = s.txPos ∧ (s.raise c).chipRegs = s.chipRegs ∧ (s.raise c).slotGen = s.slotGen ∧
    (s.raise c).held = s.held ∧ (s.raise c).lastMillis = s.lastMillis ∧ (s.raise c).inbox = s.inbox ∧
    (s.raise c).payloadPort = s.payloadPort ∧ (s.raise c).chipIn = s.chipIn ∧ (s.raise c).millisIn = s.millisIn ∧
    (s.raise c).intNIn = s.intNIn ∧ (s.raise c).ackIn = s.ackIn ∧ (s.raise c).sclHold = s.sclHold := by
  refine ⟨?_, ?_, ?_, ?_, ?_, ?_, ?_, ?_, ?_, ?_, ?_, ?_, ?_, ?_, ?_, ?_, ?_, ?_, ?_, ?_, ?_, ?_, ?_, ?_, ?_, ?_⟩ <;> rfl

@[simp] theorem State.noteNack_fields (s : State) (whole : Bool) (c : Condition) :
    (s.noteNack whole c).attach = s.attach ∧ (s.noteNack whole c).measCc = s.measCc ∧
    (s.noteNack whole c).timerActive = s.timerActive ∧ (s.noteNack whole c).timerExp = s.timerExp ∧
    (s.noteNack whole c).nextMessageId = s.nextMessageId ∧ (s.noteNack whole c).intNMode = s.intNMode ∧
    (s.noteNack whole c).rxIdx = s.rxIdx ∧ (s.noteNack whole c).rxRing = s.rxRing ∧
    (s.noteNack whole c).txBuf = s.txBuf ∧ (s.noteNack whole c).evq = s.evq ∧ (s.noteNack whole c).resp = s.resp ∧
    (s.noteNack whole c).trace = s.trace ++ (if whole then [] else [.raise c]) ∧
    (s.noteNack whole c).wire = s.wire ∧ (s.noteNack whole c).lines = s.lines ∧
    (s.noteNack whole c).txPos = s.txPos ∧ (s.noteNack whole c).chipRegs = s.chipRegs ∧
    (s.noteNack whole c).slotGen = s.slotGen ∧ (s.noteNack whole c).held = s.held ∧
    (s.noteNack whole c).lastMillis = s.lastMillis ∧ (s.noteNack whole c).inbox = s.inbox ∧
    (s.noteNack whole c).payloadPort = s.payloadPort ∧ (s.noteNack whole c).chipIn = s.chipIn ∧
    (s.noteNack whole c).millisIn = s.millisIn ∧ (s.noteNack whole c).intNIn = s.intNIn ∧
    (s.noteNack whole c).ackIn = s.ackIn ∧ (s.noteNack whole c).sclHold = s.sclHold := by
  refine ⟨?_, ?_, ?_, ?_, ?_, ?_, ?_, ?_, ?_, ?_, ?_, ?_, ?_, ?_, ?_, ?_, ?_, ?_, ?_, ?_, ?_, ?_, ?_, ?_, ?_, ?_⟩ <;> rfl

@[simp] theorem State.respond_fields (s : State) (status : BitVec 2) (value : Word) :
    (s.respond status value).attach = s.attach ∧ (s.respond status value).measCc = s.measCc ∧
    (s.respond status value).timerActive = s.timerActive ∧ (s.respond status value).timerExp = s.timerExp ∧
    (s.respond status value).nextMessageId = s.nextMessageId ∧ (s.respond status value).intNMode = s.intNMode ∧
    (s.respond status value).rxIdx = s.rxIdx ∧ (s.respond status value).rxRing = s.rxRing ∧
    (s.respond status value).txBuf = s.txBuf ∧ (s.respond status value).evq = s.evq ∧
    (s.respond status value).resp = some ⟨status, value⟩ ∧ (s.respond status value).trace = s.trace ∧
    (s.respond status value).wire = s.wire ∧ (s.respond status value).lines = s.lines ∧
    (s.respond status value).txPos = s.txPos ∧ (s.respond status value).chipRegs = s.chipRegs ∧
    (s.respond status value).slotGen = s.slotGen ∧ (s.respond status value).held = s.held ∧
    (s.respond status value).lastMillis = s.lastMillis ∧ (s.respond status value).inbox = s.inbox ∧
    (s.respond status value).payloadPort = s.payloadPort ∧ (s.respond status value).chipIn = s.chipIn ∧
    (s.respond status value).millisIn = s.millisIn ∧ (s.respond status value).intNIn = s.intNIn ∧
    (s.respond status value).ackIn = s.ackIn ∧ (s.respond status value).sclHold = s.sclHold := by
  refine ⟨?_, ?_, ?_, ?_, ?_, ?_, ?_, ?_, ?_, ?_, ?_, ?_, ?_, ?_, ?_, ?_, ?_, ?_, ?_, ?_, ?_, ?_, ?_, ?_, ?_, ?_⟩ <;> rfl

@[simp] theorem State.onWire_fields (s : State) (syms : List BusSym) :
    (s.onWire syms).attach = s.attach ∧ (s.onWire syms).measCc = s.measCc ∧
    (s.onWire syms).timerActive = s.timerActive ∧ (s.onWire syms).timerExp = s.timerExp ∧
    (s.onWire syms).nextMessageId = s.nextMessageId ∧ (s.onWire syms).intNMode = s.intNMode ∧
    (s.onWire syms).rxIdx = s.rxIdx ∧ (s.onWire syms).rxRing = s.rxRing ∧ (s.onWire syms).txBuf = s.txBuf ∧
    (s.onWire syms).evq = s.evq ∧ (s.onWire syms).resp = s.resp ∧ (s.onWire syms).trace = s.trace ∧
    (s.onWire syms).wire = s.wire ++ syms ∧ (s.onWire syms).lines = linesAfter s.lines syms ∧
    (s.onWire syms).txPos = s.txPos ∧ (s.onWire syms).chipRegs = s.chipRegs ∧ (s.onWire syms).slotGen = s.slotGen ∧
    (s.onWire syms).held = s.held ∧ (s.onWire syms).lastMillis = s.lastMillis ∧ (s.onWire syms).inbox = s.inbox ∧
    (s.onWire syms).payloadPort = s.payloadPort ∧ (s.onWire syms).chipIn = s.chipIn ∧
    (s.onWire syms).millisIn = s.millisIn ∧ (s.onWire syms).intNIn = s.intNIn ∧ (s.onWire syms).ackIn = s.ackIn ∧
    (s.onWire syms).sclHold = s.sclHold := by
  refine ⟨?_, ?_, ?_, ?_, ?_, ?_, ?_, ?_, ?_, ?_, ?_, ?_, ?_, ?_, ?_, ?_, ?_, ?_, ?_, ?_, ?_, ?_, ?_, ?_, ?_, ?_⟩ <;> rfl

@[simp] theorem State.tick_fields (s : State) :
    s.tick.attach = s.attach ∧ s.tick.measCc = s.measCc ∧ s.tick.timerActive = s.timerActive ∧
    s.tick.timerExp = s.timerExp ∧ s.tick.nextMessageId = s.nextMessageId ∧ s.tick.intNMode = s.intNMode ∧
    s.tick.rxIdx = s.rxIdx ∧ s.tick.rxRing = s.rxRing ∧ s.tick.txBuf = s.txBuf ∧ s.tick.evq = s.evq ∧
    s.tick.resp = s.resp ∧ s.tick.trace = s.trace ∧ s.tick.wire = s.wire ∧ s.tick.lines = s.lines ∧
    s.tick.txPos = s.txPos ∧ s.tick.chipRegs = s.chipRegs ∧ s.tick.slotGen = s.slotGen ∧ s.tick.held = s.held ∧
    s.tick.lastMillis = some s.millisNow ∧ s.tick.inbox = s.inbox ∧ s.tick.payloadPort = s.payloadPort ∧
    s.tick.chipIn = s.chipIn ∧ s.tick.millisIn = s.millisIn.next ∧ s.tick.intNIn = s.intNIn ∧
    s.tick.ackIn = s.ackIn ∧ s.tick.sclHold = s.sclHold := by
  refine ⟨?_, ?_, ?_, ?_, ?_, ?_, ?_, ?_, ?_, ?_, ?_, ?_, ?_, ?_, ?_, ?_, ?_, ?_, ?_, ?_, ?_, ?_, ?_, ?_, ?_, ?_⟩ <;> rfl

@[simp] theorem State.sampleMillis_fields (s : State) :
    s.sampleMillis.attach = s.attach ∧ s.sampleMillis.measCc = s.measCc ∧
    s.sampleMillis.timerActive = s.timerActive ∧ s.sampleMillis.timerExp = s.timerExp ∧
    s.sampleMillis.nextMessageId = s.nextMessageId ∧ s.sampleMillis.intNMode = s.intNMode ∧
    s.sampleMillis.rxIdx = s.rxIdx ∧ s.sampleMillis.rxRing = s.rxRing ∧ s.sampleMillis.txBuf = s.txBuf ∧
    s.sampleMillis.evq = s.evq ∧ s.sampleMillis.resp = s.resp ∧
    s.sampleMillis.trace = s.trace ++ [.millis s.millisNow] ∧ s.sampleMillis.wire = s.wire ∧
    s.sampleMillis.lines = s.lines ∧ s.sampleMillis.txPos = s.txPos ∧ s.sampleMillis.chipRegs = s.chipRegs ∧
    s.sampleMillis.slotGen = s.slotGen ∧ s.sampleMillis.held = s.held ∧
    s.sampleMillis.lastMillis = some s.millisNow ∧ s.sampleMillis.inbox = s.inbox ∧
    s.sampleMillis.payloadPort = s.payloadPort ∧ s.sampleMillis.chipIn = s.chipIn ∧
    s.sampleMillis.millisIn = s.millisIn.next ∧ s.sampleMillis.intNIn = s.intNIn ∧ s.sampleMillis.ackIn = s.ackIn ∧
    s.sampleMillis.sclHold = s.sclHold := by
  refine ⟨?_, ?_, ?_, ?_, ?_, ?_, ?_, ?_, ?_, ?_, ?_, ?_, ?_, ?_, ?_, ?_, ?_, ?_, ?_, ?_, ?_, ?_, ?_, ?_, ?_, ?_⟩ <;> rfl

@[simp] theorem State.timerStart_fields (s : State) (ms : Word) :
    (s.timerStart ms).attach = s.attach ∧ (s.timerStart ms).measCc = s.measCc ∧
    (s.timerStart ms).timerActive = true ∧ (s.timerStart ms).timerExp = s.millisNow + ms ∧
    (s.timerStart ms).nextMessageId = s.nextMessageId ∧ (s.timerStart ms).intNMode = s.intNMode ∧
    (s.timerStart ms).rxIdx = s.rxIdx ∧ (s.timerStart ms).rxRing = s.rxRing ∧ (s.timerStart ms).txBuf = s.txBuf ∧
    (s.timerStart ms).evq = s.evq ∧ (s.timerStart ms).resp = s.resp ∧
    (s.timerStart ms).trace = s.trace ++ [.millis s.millisNow] ∧ (s.timerStart ms).wire = s.wire ∧
    (s.timerStart ms).lines = s.lines ∧ (s.timerStart ms).txPos = s.txPos ∧
    (s.timerStart ms).chipRegs = s.chipRegs ∧ (s.timerStart ms).slotGen = s.slotGen ∧
    (s.timerStart ms).held = s.held ∧ (s.timerStart ms).lastMillis = some s.millisNow ∧
    (s.timerStart ms).inbox = s.inbox ∧ (s.timerStart ms).payloadPort = s.payloadPort ∧
    (s.timerStart ms).chipIn = s.chipIn ∧ (s.timerStart ms).millisIn = s.millisIn.next ∧
    (s.timerStart ms).intNIn = s.intNIn ∧ (s.timerStart ms).ackIn = s.ackIn ∧ (s.timerStart ms).sclHold = s.sclHold := by
  refine ⟨?_, ?_, ?_, ?_, ?_, ?_, ?_, ?_, ?_, ?_, ?_, ?_, ?_, ?_, ?_, ?_, ?_, ?_, ?_, ?_, ?_, ?_, ?_, ?_, ?_, ?_⟩ <;> rfl

@[simp] theorem State.timerCancel_fields (s : State) :
    s.timerCancel.attach = s.attach ∧ s.timerCancel.measCc = s.measCc ∧ s.timerCancel.timerActive = false ∧
    s.timerCancel.timerExp = s.timerExp ∧ s.timerCancel.nextMessageId = s.nextMessageId ∧
    s.timerCancel.intNMode = s.intNMode ∧ s.timerCancel.rxIdx = s.rxIdx ∧ s.timerCancel.rxRing = s.rxRing ∧
    s.timerCancel.txBuf = s.txBuf ∧ s.timerCancel.evq = s.evq ∧ s.timerCancel.resp = s.resp ∧
    s.timerCancel.trace = s.trace ∧ s.timerCancel.wire = s.wire ∧ s.timerCancel.lines = s.lines ∧
    s.timerCancel.txPos = s.txPos ∧ s.timerCancel.chipRegs = s.chipRegs ∧ s.timerCancel.slotGen = s.slotGen ∧
    s.timerCancel.held = s.held ∧ s.timerCancel.lastMillis = s.lastMillis ∧ s.timerCancel.inbox = s.inbox ∧
    s.timerCancel.payloadPort = s.payloadPort ∧ s.timerCancel.chipIn = s.chipIn ∧
    s.timerCancel.millisIn = s.millisIn ∧ s.timerCancel.intNIn = s.intNIn ∧ s.timerCancel.ackIn = s.ackIn ∧
    s.timerCancel.sclHold = s.sclHold := by
  refine ⟨?_, ?_, ?_, ?_, ?_, ?_, ?_, ?_, ?_, ?_, ?_, ?_, ?_, ?_, ?_, ?_, ?_, ?_, ?_, ?_, ?_, ?_, ?_, ?_, ?_, ?_⟩ <;> rfl

@[simp] theorem State.sampleIntN_fields (s : State) :
    s.sampleIntN.attach = s.attach ∧ s.sampleIntN.measCc = s.measCc ∧ s.sampleIntN.timerActive = s.timerActive ∧
    s.sampleIntN.timerExp = s.timerExp ∧ s.sampleIntN.nextMessageId = s.nextMessageId ∧
    s.sampleIntN.intNMode = s.intNMode ∧ s.sampleIntN.rxIdx = s.rxIdx ∧ s.sampleIntN.rxRing = s.rxRing ∧
    s.sampleIntN.txBuf = s.txBuf ∧ s.sampleIntN.evq = s.evq ∧ s.sampleIntN.resp = s.resp ∧
    s.sampleIntN.trace = s.trace ++ [.intN s.intNLow] ∧ s.sampleIntN.wire = s.wire ∧ s.sampleIntN.lines = s.lines ∧
    s.sampleIntN.txPos = s.txPos ∧ s.sampleIntN.chipRegs = s.chipRegs ∧ s.sampleIntN.slotGen = s.slotGen ∧
    s.sampleIntN.held = s.held ∧ s.sampleIntN.lastMillis = s.lastMillis ∧ s.sampleIntN.inbox = s.inbox ∧
    s.sampleIntN.payloadPort = s.payloadPort ∧ s.sampleIntN.chipIn = s.chipIn ∧
    s.sampleIntN.millisIn = s.millisIn ∧ s.sampleIntN.intNIn = s.intNIn.next ∧ s.sampleIntN.ackIn = s.ackIn ∧
    s.sampleIntN.sclHold = s.sclHold := by
  refine ⟨?_, ?_, ?_, ?_, ?_, ?_, ?_, ?_, ?_, ?_, ?_, ?_, ?_, ?_, ?_, ?_, ?_, ?_, ?_, ?_, ?_, ?_, ?_, ?_, ?_, ?_⟩ <;> rfl

@[simp] theorem State.initIntN_fields (s : State) :
    s.initIntN.attach = s.attach ∧ s.initIntN.measCc = s.measCc ∧ s.initIntN.timerActive = s.timerActive ∧
    s.initIntN.timerExp = s.timerExp ∧ s.initIntN.nextMessageId = s.nextMessageId ∧ s.initIntN.intNMode = .input ∧
    s.initIntN.rxIdx = s.rxIdx ∧ s.initIntN.rxRing = s.rxRing ∧ s.initIntN.txBuf = s.txBuf ∧
    s.initIntN.evq = s.evq ∧ s.initIntN.resp = s.resp ∧ s.initIntN.trace = s.trace ++ [.pulse] ∧
    s.initIntN.wire = s.wire ∧ s.initIntN.lines = s.lines ∧ s.initIntN.txPos = s.txPos ∧
    s.initIntN.chipRegs = s.chipRegs ∧ s.initIntN.slotGen = s.slotGen ∧ s.initIntN.held = s.held ∧
    s.initIntN.lastMillis = s.lastMillis ∧ s.initIntN.inbox = s.inbox ∧ s.initIntN.payloadPort = s.payloadPort ∧
    s.initIntN.chipIn = s.chipIn ∧ s.initIntN.millisIn = s.millisIn ∧ s.initIntN.intNIn = s.intNIn ∧
    s.initIntN.ackIn = s.ackIn ∧ s.initIntN.sclHold = s.sclHold := by
  refine ⟨?_, ?_, ?_, ?_, ?_, ?_, ?_, ?_, ?_, ?_, ?_, ?_, ?_, ?_, ?_, ?_, ?_, ?_, ?_, ?_, ?_, ?_, ?_, ?_, ?_, ?_⟩ <;> rfl

@[simp] theorem State.clearEvents_fields (s : State) :
    s.clearEvents.attach = s.attach ∧ s.clearEvents.measCc = s.measCc ∧ s.clearEvents.timerActive = s.timerActive ∧
    s.clearEvents.timerExp = s.timerExp ∧ s.clearEvents.nextMessageId = s.nextMessageId ∧
    s.clearEvents.intNMode = s.intNMode ∧ s.clearEvents.rxIdx = s.rxIdx ∧ s.clearEvents.rxRing = s.rxRing ∧
    s.clearEvents.txBuf = s.txBuf ∧ s.clearEvents.evq = [] ∧ s.clearEvents.resp = s.resp ∧
    s.clearEvents.trace = s.trace ∧ s.clearEvents.wire = s.wire ∧ s.clearEvents.lines = s.lines ∧
    s.clearEvents.txPos = s.txPos ∧ s.clearEvents.chipRegs = s.chipRegs ∧ s.clearEvents.slotGen = s.slotGen ∧
    s.clearEvents.held = s.held ∧ s.clearEvents.lastMillis = s.lastMillis ∧ s.clearEvents.inbox = s.inbox ∧
    s.clearEvents.payloadPort = s.payloadPort ∧ s.clearEvents.chipIn = s.chipIn ∧
    s.clearEvents.millisIn = s.millisIn ∧ s.clearEvents.intNIn = s.intNIn ∧ s.clearEvents.ackIn = s.ackIn ∧
    s.clearEvents.sclHold = s.sclHold := by
  refine ⟨?_, ?_, ?_, ?_, ?_, ?_, ?_, ?_, ?_, ?_, ?_, ?_, ?_, ?_, ?_, ?_, ?_, ?_, ?_, ?_, ?_, ?_, ?_, ?_, ?_, ?_⟩ <;> rfl

@[simp] theorem State.popped_fields (s : State) (e : Event) (rest : List Event) :
    (s.popped e rest).attach = s.attach ∧ (s.popped e rest).measCc = s.measCc ∧
    (s.popped e rest).timerActive = s.timerActive ∧ (s.popped e rest).timerExp = s.timerExp ∧
    (s.popped e rest).nextMessageId = s.nextMessageId ∧ (s.popped e rest).intNMode = s.intNMode ∧
    (s.popped e rest).rxIdx = s.rxIdx ∧ (s.popped e rest).rxRing = s.rxRing ∧ (s.popped e rest).txBuf = s.txBuf ∧
    (s.popped e rest).evq = rest ∧ (s.popped e rest).resp = s.resp ∧ (s.popped e rest).trace = s.trace ∧
    (s.popped e rest).wire = s.wire ∧ (s.popped e rest).lines = s.lines ∧ (s.popped e rest).txPos = s.txPos ∧
    (s.popped e rest).chipRegs = s.chipRegs ∧ (s.popped e rest).slotGen = s.slotGen ∧
    (s.popped e rest).held = noteHeld s.held e ∧ (s.popped e rest).lastMillis = s.lastMillis ∧
    (s.popped e rest).inbox = s.inbox ∧ (s.popped e rest).payloadPort = s.payloadPort ∧
    (s.popped e rest).chipIn = s.chipIn ∧ (s.popped e rest).millisIn = s.millisIn ∧
    (s.popped e rest).intNIn = s.intNIn ∧ (s.popped e rest).ackIn = s.ackIn ∧ (s.popped e rest).sclHold = s.sclHold := by
  refine ⟨?_, ?_, ?_, ?_, ?_, ?_, ?_, ?_, ?_, ?_, ?_, ?_, ?_, ?_, ?_, ?_, ?_, ?_, ?_, ?_, ?_, ?_, ?_, ?_, ?_, ?_⟩ <;> rfl

@[simp] theorem State.storeFrame_fields (s : State) (d : List Byte) :
    (s.storeFrame d).attach = s.attach ∧ (s.storeFrame d).measCc = s.measCc ∧
    (s.storeFrame d).timerActive = s.timerActive ∧ (s.storeFrame d).timerExp = s.timerExp ∧
    (s.storeFrame d).nextMessageId = s.nextMessageId ∧ (s.storeFrame d).intNMode = s.intNMode ∧
    (s.storeFrame d).rxIdx = s.rxIdx ∧ (s.storeFrame d).rxRing = s.rxRing.writeList (ringAddress s.rxIdx 0) d ∧
    (s.storeFrame d).txBuf = s.txBuf ∧ (s.storeFrame d).evq = s.evq ∧ (s.storeFrame d).resp = s.resp ∧
    (s.storeFrame d).trace = s.trace ∧ (s.storeFrame d).wire = s.wire ∧ (s.storeFrame d).lines = s.lines ∧
    (s.storeFrame d).txPos = s.txPos ∧ (s.storeFrame d).chipRegs = s.chipRegs ∧
    (s.storeFrame d).slotGen = s.slotGen.set s.rxIdx.toNat (s.generation s.rxIdx + 1) ∧
    (s.storeFrame d).held = s.held ∧ (s.storeFrame d).lastMillis = s.lastMillis ∧
    (s.storeFrame d).inbox = s.inbox ∧ (s.storeFrame d).payloadPort = s.payloadPort ∧
    (s.storeFrame d).chipIn = s.chipIn ∧ (s.storeFrame d).millisIn = s.millisIn ∧
    (s.storeFrame d).intNIn = s.intNIn ∧ (s.storeFrame d).ackIn = s.ackIn ∧ (s.storeFrame d).sclHold = s.sclHold := by
  refine ⟨?_, ?_, ?_, ?_, ?_, ?_, ?_, ?_, ?_, ?_, ?_, ?_, ?_, ?_, ?_, ?_, ?_, ?_, ?_, ?_, ?_, ?_, ?_, ?_, ?_, ?_⟩ <;> rfl

@[simp] theorem State.startStream_fields (s : State) :
    s.startStream.attach = s.attach ∧ s.startStream.measCc = s.measCc ∧ s.startStream.timerActive = s.timerActive ∧
    s.startStream.timerExp = s.timerExp ∧ s.startStream.nextMessageId = s.nextMessageId ∧
    s.startStream.intNMode = s.intNMode ∧ s.startStream.rxIdx = s.rxIdx ∧ s.startStream.rxRing = s.rxRing ∧
    s.startStream.txBuf = s.txBuf ∧ s.startStream.evq = s.evq ∧ s.startStream.resp = s.resp ∧
    s.startStream.trace = s.trace ∧ s.startStream.wire = s.wire ∧ s.startStream.lines = s.lines ∧
    s.startStream.txPos = 0 ∧ s.startStream.chipRegs = s.chipRegs ∧ s.startStream.slotGen = s.slotGen ∧
    s.startStream.held = s.held ∧ s.startStream.lastMillis = s.lastMillis ∧ s.startStream.inbox = s.inbox ∧
    s.startStream.payloadPort = s.payloadPort ∧ s.startStream.chipIn = s.chipIn ∧
    s.startStream.millisIn = s.millisIn ∧ s.startStream.intNIn = s.intNIn ∧ s.startStream.ackIn = s.ackIn ∧
    s.startStream.sclHold = s.sclHold := by
  refine ⟨?_, ?_, ?_, ?_, ?_, ?_, ?_, ?_, ?_, ?_, ?_, ?_, ?_, ?_, ?_, ?_, ?_, ?_, ?_, ?_, ?_, ?_, ?_, ?_, ?_, ?_⟩ <;> rfl

@[simp] theorem State.emitByte_fields (s : State) (b : Byte) :
    (s.emitByte b).attach = s.attach ∧ (s.emitByte b).measCc = s.measCc ∧
    (s.emitByte b).timerActive = s.timerActive ∧ (s.emitByte b).timerExp = s.timerExp ∧
    (s.emitByte b).nextMessageId = s.nextMessageId ∧ (s.emitByte b).intNMode = s.intNMode ∧
    (s.emitByte b).rxIdx = s.rxIdx ∧ (s.emitByte b).rxRing = s.rxRing ∧
    (s.emitByte b).txBuf = s.txBuf.write s.txPos b ∧ (s.emitByte b).evq = s.evq ∧ (s.emitByte b).resp = s.resp ∧
    (s.emitByte b).trace = s.trace ∧ (s.emitByte b).wire = s.wire ∧ (s.emitByte b).lines = s.lines ∧
    (s.emitByte b).txPos = s.txPos + 1 ∧ (s.emitByte b).chipRegs = s.chipRegs ∧
    (s.emitByte b).slotGen = s.slotGen ∧ (s.emitByte b).held = s.held ∧ (s.emitByte b).lastMillis = s.lastMillis ∧
    (s.emitByte b).inbox = s.inbox ∧ (s.emitByte b).payloadPort = s.payloadPort ∧
    (s.emitByte b).chipIn = s.chipIn ∧ (s.emitByte b).millisIn = s.millisIn ∧ (s.emitByte b).intNIn = s.intNIn ∧
    (s.emitByte b).ackIn = s.ackIn ∧ (s.emitByte b).sclHold = s.sclHold := by
  refine ⟨?_, ?_, ?_, ?_, ?_, ?_, ?_, ?_, ?_, ?_, ?_, ?_, ?_, ?_, ?_, ?_, ?_, ?_, ?_, ?_, ?_, ?_, ?_, ?_, ?_, ?_⟩ <;> rfl

@[simp] theorem State.presentToken_fields (s : State) (token : Byte) :
    (s.presentToken token).attach = s.attach ∧ (s.presentToken token).measCc = s.measCc ∧
    (s.presentToken token).timerActive = s.timerActive ∧ (s.presentToken token).timerExp = s.timerExp ∧
    (s.presentToken token).nextMessageId = s.nextMessageId ∧ (s.presentToken token).intNMode = s.intNMode ∧
    (s.presentToken token).rxIdx = s.rxIdx ∧ (s.presentToken token).rxRing = s.rxRing ∧
    (s.presentToken token).txBuf = s.txBuf ∧ (s.presentToken token).evq = s.evq ∧
    (s.presentToken token).resp = s.resp ∧ (s.presentToken token).trace = s.trace ∧
    (s.presentToken token).wire = s.wire ∧ (s.presentToken token).lines = s.lines ∧
    (s.presentToken token).txPos = s.txPos ∧ (s.presentToken token).chipRegs = s.chipRegs ∧
    (s.presentToken token).slotGen = s.slotGen ∧ (s.presentToken token).held = s.held ∧
    (s.presentToken token).lastMillis = s.lastMillis ∧ (s.presentToken token).inbox = s.inbox ∧
    (s.presentToken token).payloadPort = s.payloadPort ∧
    (s.presentToken token).chipIn = ⟨token :: s.chipIn.pending, s.chipIn.taken⟩ ∧
    (s.presentToken token).millisIn = s.millisIn ∧ (s.presentToken token).intNIn = s.intNIn ∧
    (s.presentToken token).ackIn = s.ackIn ∧ (s.presentToken token).sclHold = s.sclHold := by
  refine ⟨?_, ?_, ?_, ?_, ?_, ?_, ?_, ?_, ?_, ?_, ?_, ?_, ?_, ?_, ?_, ?_, ?_, ?_, ?_, ?_, ?_, ?_, ?_, ?_, ?_, ?_⟩ <;> rfl

end Sys2Proof.Machine
end

