-- ==== Sys2Proof/Laws/Memory.lean ====
section
/-! SUPPORT. The laws of Memory: reads after writes, and that every operation keeps the canonical form. -/

namespace Sys2Proof.Machine

theorem Memory.read_write_same (m : Memory) (a : Nat) (b : Byte) : (m.write a b).read a = some b := by
  induction m with
  | nil => simp [Memory.write, Memory.read]
  | cons c rest ih =>
    obtain ⟨a', b'⟩ := c
    rw [Memory.write]
    split
    · simp [Memory.read]
    · split
      · simp [Memory.read]
      · simp [Memory.read, *]

theorem Memory.read_write_other (m : Memory) {a x : Nat} (b : Byte) (h : x ≠ a) :
    (m.write a b).read x = m.read x := by
  induction m with
  | nil => simp [Memory.write, Memory.read, h]
  | cons c rest ih =>
    obtain ⟨a', b'⟩ := c
    rw [Memory.write]
    split
    · simp [Memory.read, h]
    · split
      · subst_vars; simp [Memory.read, h]
      · simp [Memory.read, ih]

theorem Memory.read_write (m : Memory) (a x : Nat) (b : Byte) :
    (m.write a b).read x = if x = a then some b else m.read x := by
  split
  · subst_vars; exact read_write_same ..
  · exact read_write_other m b ‹_›

/-- Bytes written at consecutive addresses read back; every other address is left alone. -/
theorem Memory.read_writeList (m : Memory) (a x : Nat) (bs : List Byte) :
    (m.writeList a bs).read x = if a ≤ x ∧ x < a + bs.length then bs[x - a]? else m.read x := by
  induction bs generalizing m a with
  | nil => simp only [Memory.writeList, List.length_nil]; rw [if_neg (by omega)]
  | cons b bs ih =>
    simp only [Memory.writeList, ih, Memory.read_write, List.length_cons]
    by_cases h1 : x = a
    · subst h1
      rw [if_neg (by omega), if_pos rfl, if_pos (by omega)]
      simp
    · by_cases h2 : a + 1 ≤ x ∧ x < a + 1 + bs.length
      · rw [if_pos h2, if_pos (by omega), show x - a = (x - (a + 1)) + 1 by omega, List.getElem?_cons_succ]
      · rw [if_neg h2, if_neg h1, if_neg (by omega)]

/-- The first listed address of a memory, if any, is above `a`. -/
def Memory.above (a : Nat) : Memory → Prop
  | [] => True
  | (a', _) :: _ => a < a'

theorem Memory.wf_cons (a : Nat) (b : Byte) (m : Memory) :
    Memory.wf ((a, b) :: m) = true ↔ Memory.above a m ∧ m.wf = true := by
  cases m with
  | nil => simp [Memory.wf, Memory.above]
  | cons c rest => obtain ⟨a', b'⟩ := c; simp [Memory.wf, Memory.above]

theorem Memory.above_write {a x : Nat} {b : Byte} {m : Memory} (h : a < x) (hm : m.above a) :
    (m.write x b).above a := by
  cases m with
  | nil => simpa [Memory.write, Memory.above]
  | cons c rest =>
    obtain ⟨a', b'⟩ := c
    rw [Memory.write]
    split
    · simpa [Memory.above]
    · split <;> simpa [Memory.above] using (by first | exact h | exact hm)

theorem Memory.write_wf (m : Memory) (a : Nat) (b : Byte) (h : m.wf = true) : (m.write a b).wf = true := by
  induction m with
  | nil => simp [Memory.write, Memory.wf]
  | cons c rest ih =>
    obtain ⟨a', b'⟩ := c
    have h' := (Memory.wf_cons a' b' rest).1 h
    rw [Memory.write]
    split
    · exact (Memory.wf_cons _ _ _).2 ⟨by simpa [Memory.above], h⟩
    · split
      · subst_vars; exact (Memory.wf_cons _ _ _).2 h'
      · exact (Memory.wf_cons _ _ _).2 ⟨above_write (by omega) h'.1, ih h'.2⟩

theorem Memory.writeList_wf (m : Memory) (a : Nat) (bs : List Byte) (h : m.wf = true) :
    (m.writeList a bs).wf = true := by
  induction bs generalizing m a with
  | nil => exact h
  | cons b bs ih => exact ih _ _ (m.write_wf a b h)

theorem Memory.write_below {n : Nat} (m : Memory) {a : Nat} (b : Byte) (ha : a < n) (h : m.below n = true) :
    (m.write a b).below n = true := by
  induction m with
  | nil => simpa [Memory.write, Memory.below]
  | cons c rest ih =>
    obtain ⟨a', b'⟩ := c
    simp only [Memory.below, List.all_cons, Bool.and_eq_true, decide_eq_true_eq] at h ih
    rw [Memory.write]
    split
    · simp [Memory.below, ha, h.1]; simpa using h.2
    · split
      · simp [Memory.below, ha]; simpa using h.2
      · simp [Memory.below, h.1]; simpa [Memory.below] using ih h.2

theorem Memory.writeList_below {n : Nat} (m : Memory) (a : Nat) (bs : List Byte) (ha : a + bs.length ≤ n)
    (h : m.below n = true) : (m.writeList a bs).below n = true := by
  induction bs generalizing m a with
  | nil => exact h
  | cons b bs ih =>
    simp only [List.length_cons] at ha
    exact ih _ _ (by omega) (m.write_below b (by omega) h)

/-- Two canonical memories that read alike are the same data. -/
theorem Memory.ext_of_read {m m' : Memory} (h : m.wf = true) (h' : m'.wf = true)
    (hr : ∀ a, m.read a = m'.read a) : m = m' := by
  have none_of_above : ∀ (m : Memory) (a x : Nat), m.wf = true → m.above a → x ≤ a → m.read x = none := by
    intro m
    induction m with
    | nil => intros; rfl
    | cons c rest ih =>
      obtain ⟨a', b'⟩ := c
      intro a x hw ha hx
      simp only [Memory.above] at ha
      rw [Memory.read, if_neg (by omega)]
      exact ih a' x ((wf_cons _ _ _).1 hw).2 ((wf_cons _ _ _).1 hw).1 (by omega)
  induction m generalizing m' with
  | nil =>
    cases m' with
    | nil => rfl
    | cons c rest => obtain ⟨a, b⟩ := c; have := hr a; simp [Memory.read] at this
  | cons c rest ih =>
    obtain ⟨a, b⟩ := c
    cases m' with
    | nil => have := hr a; simp [Memory.read] at this
    | cons c' rest' =>
      obtain ⟨a', b'⟩ := c'
      have w := (wf_cons _ _ _).1 h
      have w' := (wf_cons _ _ _).1 h'
      have e : a = a' := by
        rcases Nat.lt_trichotomy a a' with hl | he | hl
        · have := hr a
          rw [Memory.read, if_pos rfl, none_of_above ((a', b') :: rest') a a h' hl (Nat.le_refl _)] at this
          cases this
        · exact he
        · have := hr a'
          rw [none_of_above ((a, b) :: rest) a' a' h hl (Nat.le_refl _), Memory.read, if_pos rfl] at this
          cases this
      subst e
      have eb : b = b' := by have := hr a; simpa [Memory.read] using this
      subst eb
      congr 1
      refine ih w.2 w'.2 fun x => ?_
      by_cases hx : x = a
      · subst hx
        rw [none_of_above rest x x w.2 w.1 (Nat.le_refl _), none_of_above rest' x x w'.2 w'.1 (Nat.le_refl _)]
      · have := hr x; simpa [Memory.read, hx] using this

/-- The block's own writes into the chip keep the shadow's form (R47). -/
theorem noteWrite_wf (reg : Byte) (acked : List Byte) (regs : Memory) (h : regs.wf = true) :
    (noteWrite reg acked regs).wf = true := by
  unfold noteWrite
  split
  · exact h
  · split
    · split
      · rfl
      · exact h
    · split
      · exact h
      · exact regs.write_wf _ _ h

theorem noteWrite_below (reg : Byte) (acked : List Byte) (regs : Memory) (h : regs.below 256 = true) :
    (noteWrite reg acked regs).below 256 = true := by
  unfold noteWrite
  split
  · exact h
  · split
    · split
      · rfl
      · exact h
    · split
      · exact h
      · exact regs.write_below _ reg.isLt h

/-- The record of a write that is no chip reset keeps every other register (R47). -/
theorem noteWrite_read_ne {reg : Byte} (hr : reg ≠ regReset) (acked : List Byte) (regs : Memory) {a : Nat}
    (ha : a ≠ reg.toNat) : (noteWrite reg acked regs).read a = regs.read a := by
  unfold noteWrite
  split
  · rfl
  · rw [if_neg hr]
    split
    · rfl
    · exact Memory.read_write_other _ _ ha

end Sys2Proof.Machine
end

