-- ==== Sys2Proof/Laws/Bus.lean ====
section
/-! SUPPORT. What the draws and the I2C transactions do, said once: which fields a transaction can change, that it leaves
the bus idle, and what is sent where every byte is acknowledged and where one is not. -/

namespace Sys2Proof.Machine

/-! Draws. -/

@[simp] theorem Input.length_values {α : Type} (free : Nat → α) (n : Nat) (i : Input α) :
    (Input.values free n i).length = n := by
  induction n generalizing i with
  | zero => rfl
  | succ n ih => simp [Input.values, ih]

/-- Draws that are listed are the listed values, in order. -/
theorem Input.values_of_pending {α : Type} (free : Nat → α) (xs rest : List α) (k : Nat) :
    Input.values free xs.length ⟨xs ++ rest, k⟩ = xs := by
  induction xs generalizing k with
  | nil => rfl
  | cons x xs ih => simpa [Input.values, Input.value, Input.next] using ih (k + 1)

/-- Consuming listed draws leaves the rest of the list. -/
theorem Input.skip_of_pending {α : Type} (xs rest : List α) (k : Nat) :
    Input.skip xs.length ⟨xs ++ rest, k⟩ = ⟨rest, k + xs.length⟩ := by
  induction xs generalizing k with
  | nil => rfl
  | cons x xs ih => simpa [Input.skip, Input.next, Nat.add_comm, Nat.add_left_comm] using ih (k + 1)

theorem Input.skip_skip {α : Type} (m n : Nat) (i : Input α) : Input.skip n (Input.skip m i) = Input.skip (m + n) i := by
  induction m generalizing i with
  | zero => simp [Input.skip]
  | succ m ih => rw [Nat.succ_add]; exact ih i.next

theorem Input.values_add {α : Type} (free : Nat → α) (m n : Nat) (i : Input α) :
    Input.values free (m + n) i = Input.values free m i ++ Input.values free n (Input.skip m i) := by
  induction m generalizing i with
  | zero => simp [Input.values, Input.skip]
  | succ m ih => rw [Nat.succ_add]; simp [Input.values, Input.skip, ih]

theorem Input.next_eq_skip {α : Type} (i : Input α) : i.next = Input.skip 1 i := rfl

/-! The symbols of a run of bytes. -/

theorem sendBytes_acked_le (bs : List Byte) (acks : Input Bool) : (sendBytes bs acks).acked ≤ bs.length := by
  induction bs generalizing acks with
  | nil => simp [sendBytes]
  | cons b bs ih =>
    rw [sendBytes]
    split
    · simpa using ih acks.next
    · simp

/-- Where the target acknowledges every byte, every byte is sent (R325). -/
theorem sendBytes_all_acked (bs : List Byte) (acks : Input Bool)
    (h : Input.values Config.freeAck bs.length acks = List.replicate bs.length true) :
    sendBytes bs acks = ⟨bs.map (BusSym.sent · true), bs.length, Input.skip bs.length acks⟩ := by
  induction bs generalizing acks with
  | nil => rfl
  | cons b bs ih =>
    simp only [List.length_cons, Input.values, List.replicate_succ, List.cons.injEq] at h
    simp [sendBytes, h.1, ih acks.next h.2, Input.skip]

/-- The bytes after the first one not acknowledged are not sent (R330). -/
theorem sendBytes_nack (sent : List Byte) (b : Byte) (unsent : List Byte) (acks : Input Bool)
    (h : Input.values Config.freeAck (sent.length + 1) acks = List.replicate sent.length true ++ [false]) :
    sendBytes (sent ++ b :: unsent) acks
      = ⟨sent.map (BusSym.sent · true) ++ [.sent b false], sent.length, Input.skip (sent.length + 1) acks⟩ := by
  induction sent generalizing acks with
  | nil =>
    have h1 : acks.value Config.freeAck = false := by simpa [Input.values] using h
    simp [sendBytes, h1, Input.skip]
  | cons x xs ih =>
    simp only [List.length_cons, Input.values, List.replicate_succ, List.cons_append, List.cons.injEq] at h
    simp [sendBytes, h.1, ih acks.next h.2, Input.skip]

@[simp] theorem linesAfter_nil (l : Lines) : linesAfter l [] = l := rfl

@[simp] theorem linesAfter_cons (l : Lines) (x : BusSym) (xs : List BusSym) :
    linesAfter l (x :: xs) = linesAfter x.after xs := rfl

@[simp] theorem linesAfter_append (l : Lines) (xs ys : List BusSym) :
    linesAfter l (xs ++ ys) = linesAfter (linesAfter l xs) ys := by simp [linesAfter]

/-- A STOP leaves both lines released (R328). -/
@[simp] theorem after_stop : BusSym.stop.after = Lines.idle := rfl

theorem busBytes_append (xs ys : List BusSym) : busBytes (xs ++ ys) = busBytes xs + busBytes ys := by
  induction xs with
  | nil => simp [busBytes]
  | cons x xs ih => cases x <;> simp [busBytes, ih] <;> omega

theorem busBytes_sent (bs : List Byte) (ack : Bool) : busBytes (bs.map (BusSym.sent · ack)) = bs.length := by
  induction bs with
  | nil => rfl
  | cons b bs ih => simp [busBytes, ih]

theorem busBytes_received (bs : List Byte) : busBytes (receivedSyms bs) = bs.length := by
  induction bs with
  | nil => rfl
  | cons b bs ih => cases bs <;> simp_all [receivedSyms, busBytes]

/-! What a transaction can change. -/

/-- A write changes the bus, the trace, the acknowledge draws and the chip's registers, and nothing else; the bus is idle
after it (R325, R328, R330). -/
@[simp] theorem State.regWrite_fields (s : State) (reg : Byte) (v : List Byte) :
    (s.regWrite reg v).attach = s.attach ∧ (s.regWrite reg v).measCc = s.measCc ∧
    (s.regWrite reg v).timerActive = s.timerActive ∧ (s.regWrite reg v).timerExp = s.timerExp ∧
    (s.regWrite reg v).nextMessageId = s.nextMessageId ∧ (s.regWrite reg v).intNMode = s.intNMode ∧
    (s.regWrite reg v).rxIdx = s.rxIdx ∧ (s.regWrite reg v).rxRing = s.rxRing ∧
    (s.regWrite reg v).txBuf = s.txBuf ∧ (s.regWrite reg v).evq = s.evq ∧ (s.regWrite reg v).resp = s.resp ∧
    (s.regWrite reg v).lines = Lines.idle ∧ (s.regWrite reg v).txPos = s.txPos ∧
    (s.regWrite reg v).chipRegs
      = noteWrite reg (v.take ((sendBytes (addrWrite :: reg :: v) s.ackIn).acked - 2)) s.chipRegs ∧
    (s.regWrite reg v).slotGen = s.slotGen ∧ (s.regWrite reg v).held = s.held ∧
    (s.regWrite reg v).lastMillis = s.lastMillis ∧ (s.regWrite reg v).inbox = s.inbox ∧
    (s.regWrite reg v).payloadPort = s.payloadPort ∧ (s.regWrite reg v).chipIn = s.chipIn ∧
    (s.regWrite reg v).millisIn = s.millisIn ∧ (s.regWrite reg v).intNIn = s.intNIn ∧
    (s.regWrite reg v).ackIn = (sendBytes (addrWrite :: reg :: v) s.ackIn).acks ∧
    (s.regWrite reg v).sclHold = s.sclHold := by
  unfold State.regWrite State.regWriteEnding
  simp

/-- A read changes the bus, the trace and the draws, and nothing else; the bus is idle after it (R326, R328, R330). -/
@[simp] theorem State.regRead_fields (s : State) (reg : Byte) (n : Nat) :
    (s.regRead reg n).attach = s.attach ∧ (s.regRead reg n).measCc = s.measCc ∧
    (s.regRead reg n).timerActive = s.timerActive ∧ (s.regRead reg n).timerExp = s.timerExp ∧
    (s.regRead reg n).nextMessageId = s.nextMessageId ∧ (s.regRead reg n).intNMode = s.intNMode ∧
    (s.regRead reg n).rxIdx = s.rxIdx ∧ (s.regRead reg n).rxRing = s.rxRing ∧
    (s.regRead reg n).txBuf = s.txBuf ∧ (s.regRead reg n).evq = s.evq ∧ (s.regRead reg n).resp = s.resp ∧
    (s.regRead reg n).lines = Lines.idle ∧ (s.regRead reg n).txPos = s.txPos ∧
    (s.regRead reg n).chipRegs = s.chipRegs ∧ (s.regRead reg n).slotGen = s.slotGen ∧
    (s.regRead reg n).held = s.held ∧ (s.regRead reg n).lastMillis = s.lastMillis ∧
    (s.regRead reg n).inbox = s.inbox ∧ (s.regRead reg n).payloadPort = s.payloadPort ∧
    (s.regRead reg n).chipIn = Input.skip n s.chipIn ∧ (s.regRead reg n).millisIn = s.millisIn ∧
    (s.regRead reg n).intNIn = s.intNIn ∧ (s.regRead reg n).ackIn = (sendRead reg s.ackIn).acks ∧
    (s.regRead reg n).sclHold = s.sclHold := by
  unfold State.regRead
  simp

/-- `RegWrite1` is a `RegWrite` of one byte (R14). -/
@[simp] theorem State.regWrite1_eq (s : State) (reg b : Byte) : s.regWrite1 reg b = s.regWrite reg [b] := rfl

/-- `RegRead1` is a `RegRead` of one byte (R14). -/
@[simp] theorem State.regRead1_eq (s : State) (reg : Byte) : s.regRead1 reg = s.regRead reg 1 := rfl

end Sys2Proof.Machine
end

