-- ==== Sys2Proof/Laws/Encoding.lean ====
section
/-! SUPPORT. The fields of R103 in the words the encoder builds, and every word as the concatenation of its fields. -/

namespace Sys2Proof

theorem low_field {m n : Nat} (hi : BitVec m) (lo : BitVec n) : (hi ++ lo).extractLsb' 0 n = lo :=
  BitVec.extractLsb'_append_eq_right

theorem above_field {m n : Nat} (hi : BitVec m) (lo : BitVec n) (k w : Nat) :
    (hi ++ lo).extractLsb' (n + k) w = hi.extractLsb' k w := by
  rw [BitVec.extractLsb'_append_eq_ite, dif_neg (by omega)]
  congr 1
  omega

/-- Two adjacent fields are the field that spans them. -/
theorem join_fields {n : Nat} (w : BitVec n) (start a b : Nat) :
    w.extractLsb' (start + a) b ++ w.extractLsb' start a = w.extractLsb' start (b + a) := by
  apply BitVec.eq_of_getLsbD_eq
  intro i hi
  simp only [BitVec.getLsbD_append, BitVec.getLsbD_extractLsb']
  by_cases h : i < a
  · simp [h]; omega
  · simp [h]
    rw [show start + a + (i - a) = start + i by omega]
    by_cases h2 : i - a < b <;> simp [h2] <;> omega

theorem whole_word (w : Word) : w.extractLsb' 0 32 = w := BitVec.extractLsb'_eq_self

/-! What the decoder's fields are in the encoder's words. -/

theorem opcodeOf_append (hi : BitVec 24) (opcode : Byte) : opcodeOf (hi ++ opcode) = opcode := low_field hi opcode

theorem formatN_zero (opcode : Byte) : (0#24 ++ opcode : Word).extractLsb' 8 24 = 0#24 :=
  (above_field 0#24 opcode 0 24).trans BitVec.extractLsb'_eq_self

theorem formatH_zero (header : Header) (opcode : Byte) : (0#8 ++ header ++ opcode : Word).extractLsb' 24 8 = 0#8 :=
  (above_field (0#8 ++ header) opcode 16 8).trans ((above_field 0#8 header 0 8).trans BitVec.extractLsb'_eq_self)

theorem headerField_encode (header : Header) (opcode : Byte) : headerField (0#8 ++ header ++ opcode) = header :=
  (above_field (0#8 ++ header) opcode 0 16).trans (low_field 0#8 header)

theorem formatT_zero (type : BitVec 5) (rev : BitVec 2) (opcode : Byte) :
    (0#17 ++ rev ++ type ++ opcode : Word).extractLsb' 15 17 = 0#17 :=
  (above_field (0#17 ++ rev ++ type) opcode 7 17).trans
    ((above_field (0#17 ++ rev) type 2 17).trans ((above_field 0#17 rev 0 17).trans BitVec.extractLsb'_eq_self))

theorem formatT_typeField (type : BitVec 5) (rev : BitVec 2) (opcode : Byte) :
    typeField (0#17 ++ rev ++ type ++ opcode) = type :=
  (above_field (0#17 ++ rev ++ type) opcode 0 5).trans (low_field (0#17 ++ rev) type)

theorem formatT_revField (type : BitVec 5) (rev : BitVec 2) (opcode : Byte) :
    revField (0#17 ++ rev ++ type ++ opcode) = rev :=
  (above_field (0#17 ++ rev ++ type) opcode 5 2).trans
    ((above_field (0#17 ++ rev) type 0 2).trans (low_field 0#17 rev))

theorem formatD_zero (type : BitVec 5) (n : BitVec 3) (rev : BitVec 2) (opcode : Byte) :
    (0#14 ++ n ++ rev ++ type ++ opcode : Word).extractLsb' 18 14 = 0#14 :=
  (above_field (0#14 ++ n ++ rev ++ type) opcode 10 14).trans
    ((above_field (0#14 ++ n ++ rev) type 5 14).trans
      ((above_field (0#14 ++ n) rev 3 14).trans ((above_field 0#14 n 0 14).trans BitVec.extractLsb'_eq_self)))

theorem formatD_typeField (type : BitVec 5) (n : BitVec 3) (rev : BitVec 2) (opcode : Byte) :
    typeField (0#14 ++ n ++ rev ++ type ++ opcode) = type :=
  (above_field (0#14 ++ n ++ rev ++ type) opcode 0 5).trans (low_field (0#14 ++ n ++ rev) type)

theorem formatD_revField (type : BitVec 5) (n : BitVec 3) (rev : BitVec 2) (opcode : Byte) :
    revField (0#14 ++ n ++ rev ++ type ++ opcode) = rev :=
  (above_field (0#14 ++ n ++ rev ++ type) opcode 5 2).trans
    ((above_field (0#14 ++ n ++ rev) type 0 2).trans (low_field (0#14 ++ n) rev))

theorem formatD_countField (type : BitVec 5) (n : BitVec 3) (rev : BitVec 2) (opcode : Byte) :
    countField (0#14 ++ n ++ rev ++ type ++ opcode) = n :=
  (above_field (0#14 ++ n ++ rev ++ type) opcode 7 3).trans
    ((above_field (0#14 ++ n ++ rev) type 2 3).trans ((above_field (0#14 ++ n) rev 0 3).trans (low_field 0#14 n)))

theorem formatX_zero (slot : BitVec 2) (offset : BitVec 6) (opcode : Byte) :
    (0#16 ++ offset ++ slot ++ opcode : Word).extractLsb' 16 16 = 0#16 :=
  (above_field (0#16 ++ offset ++ slot) opcode 8 16).trans
    ((above_field (0#16 ++ offset) slot 6 16).trans ((above_field 0#16 offset 0 16).trans BitVec.extractLsb'_eq_self))

theorem formatX_slotField (slot : BitVec 2) (offset : BitVec 6) (opcode : Byte) :
    slotField (0#16 ++ offset ++ slot ++ opcode) = slot :=
  (above_field (0#16 ++ offset ++ slot) opcode 0 2).trans (low_field (0#16 ++ offset) slot)

theorem formatX_offsetField (slot : BitVec 2) (offset : BitVec 6) (opcode : Byte) :
    offsetField (0#16 ++ offset ++ slot ++ opcode) = offset :=
  (above_field (0#16 ++ offset ++ slot) opcode 2 6).trans
    ((above_field (0#16 ++ offset) slot 0 6).trans (low_field 0#16 offset))

/-! A word as its fields. -/

theorem word_formatN (w : Word) : w.extractLsb' 8 24 ++ opcodeOf w = w :=
  (join_fields w 0 8 24).trans (whole_word w)

theorem word_formatH (w : Word) : w.extractLsb' 24 8 ++ headerField w ++ opcodeOf w = w := by
  rw [headerField, join_fields w 8 16 8]
  exact word_formatN w

theorem word_formatT (w : Word) : w.extractLsb' 15 17 ++ revField w ++ typeField w ++ opcodeOf w = w := by
  rw [revField, join_fields w 13 2 17, typeField, join_fields w 8 5 (17 + 2)]
  exact word_formatN w

theorem word_formatD (w : Word) :
    w.extractLsb' 18 14 ++ countField w ++ revField w ++ typeField w ++ opcodeOf w = w := by
  rw [countField, join_fields w 15 3 14, revField, join_fields w 13 2 (14 + 3), typeField,
    join_fields w 8 5 (14 + 3 + 2)]
  exact word_formatN w

theorem word_formatX (w : Word) : w.extractLsb' 16 16 ++ offsetField w ++ slotField w ++ opcodeOf w = w := by
  rw [offsetField, join_fields w 10 6 16, slotField, join_fields w 8 2 (16 + 6)]
  exact word_formatN w

/-- A mask of the reserved bits tests the field they make. -/
theorem mask_zero (w : Word) (k : Nat) (h : k ≤ 32) :
    w &&& (BitVec.allOnes 32 <<< k) = 0#32 ↔ w.extractLsb' k (32 - k) = 0#(32 - k) := by
  constructor <;> intro e <;> apply BitVec.eq_of_getLsbD_eq <;> intro i hi
  · have := congrArg (fun v => BitVec.getLsbD v (k + i)) e
    simp only [BitVec.getLsbD_and, BitVec.getLsbD_shiftLeft, BitVec.getLsbD_allOnes, BitVec.getLsbD_zero] at this
    simp [show k + i < 32 by omega, show ¬ 32 ≤ i by omega] at this
    simp [BitVec.getLsbD_extractLsb', this, show k + i < 32 by omega]
  · simp only [BitVec.getLsbD_and, BitVec.getLsbD_shiftLeft, BitVec.getLsbD_allOnes, BitVec.getLsbD_zero]
    by_cases hk : k ≤ i
    · have := congrArg (fun v => BitVec.getLsbD v (i - k)) e
      simp only [BitVec.getLsbD_extractLsb', BitVec.getLsbD_zero, show k + (i - k) = i by omega] at this
      simp [show i - k < 32 - k by omega] at this
      simp [this]
    · simp [show i < k by omega]

/-- The outcomes a comparison can decide: the decoder reads this instruction. -/
def decodesTo (x : Except DecodeError Instr) (i : Instr) : Bool :=
  match x with
  | .ok j => j == i
  | .error _ => false

theorem decodesTo_iff (x : Except DecodeError Instr) (i : Instr) : decodesTo x i = true ↔ x = .ok i := by
  unfold decodesTo
  split <;> simp

theorem ifReservedZero_ok (clear : Bool) (w : Word) (i j : Instr) :
    ifReservedZero clear w i = .ok j ↔ clear = true ∧ i = j := by
  unfold ifReservedZero
  split <;> simp_all

/-! The row of R101 each opcode selects. -/

theorem decodeCommand_init (w : Word) (h : opcodeOf w = 0x01#8) : decodeCommand w = formatN w .init := by
  simp [decodeCommand, h]

theorem decodeCommand_startSink (w : Word) (h : opcodeOf w = 0x02#8) : decodeCommand w = formatN w .startSink := by
  simp [decodeCommand, h]

theorem decodeCommand_poll (w : Word) (h : opcodeOf w = 0x03#8) : decodeCommand w = formatN w .poll := by
  simp [decodeCommand, h]

theorem decodeCommand_sendMessage (w : Word) (h : opcodeOf w = 0x04#8) : decodeCommand w = formatH w (.sendMessage (headerField w)) := by
  simp [decodeCommand, h]

theorem decodeCommand_sendHeaderMessage (w : Word) (h : opcodeOf w = 0x05#8) : decodeCommand w = formatT w (.sendHeaderMessage (typeField w) (revField w)) := by
  simp [decodeCommand, h]

theorem decodeCommand_hasEvent (w : Word) (h : opcodeOf w = 0x06#8) : decodeCommand w = formatN w .hasEvent := by
  simp [decodeCommand, h]

theorem decodeCommand_popEvent (w : Word) (h : opcodeOf w = 0x07#8) : decodeCommand w = formatN w .popEvent := by
  simp [decodeCommand, h]

theorem decodeCommand_getState (w : Word) (h : opcodeOf w = 0x08#8) : decodeCommand w = formatN w .getState := by
  simp [decodeCommand, h]

theorem decodeCommand_getDeviceId (w : Word) (h : opcodeOf w = 0x09#8) : decodeCommand w = formatN w .getDeviceId := by
  simp [decodeCommand, h]

theorem decodeCommand_readRxByte (w : Word) (h : opcodeOf w = 0x0A#8) : decodeCommand w = formatX w (.readRxByte (slotField w) (offsetField w)) := by
  simp [decodeCommand, h]

theorem decodeCommand_eventCount (w : Word) (h : opcodeOf w = 0x0B#8) : decodeCommand w = formatN w .eventCount := by
  simp [decodeCommand, h]

theorem decodeCommand_createCtrl (w : Word) (h : opcodeOf w = 0x10#8) : decodeCommand w = formatT w (.createCtrl (typeField w) (revField w)) := by
  simp [decodeCommand, h]

theorem decodeCommand_createData (w : Word) (h : opcodeOf w = 0x11#8) : decodeCommand w = formatD w (.createData (typeField w) (countField w) (revField w)) := by
  simp [decodeCommand, h]

theorem decodeCommand_hdrMessageType (w : Word) (h : opcodeOf w = 0x12#8) : decodeCommand w = formatH w (.hdrMessageType (headerField w)) := by
  simp [decodeCommand, h]

theorem decodeCommand_hdrNumDataObjs (w : Word) (h : opcodeOf w = 0x13#8) : decodeCommand w = formatH w (.hdrNumDataObjs (headerField w)) := by
  simp [decodeCommand, h]

theorem decodeCommand_hdrSpecRev (w : Word) (h : opcodeOf w = 0x14#8) : decodeCommand w = formatH w (.hdrSpecRev (headerField w)) := by
  simp [decodeCommand, h]

theorem decodeCommand_hdrMessageId (w : Word) (h : opcodeOf w = 0x15#8) : decodeCommand w = formatH w (.hdrMessageId (headerField w)) := by
  simp [decodeCommand, h]

theorem decodeCommand_hdrExtended (w : Word) (h : opcodeOf w = 0x16#8) : decodeCommand w = formatH w (.hdrExtended (headerField w)) := by
  simp [decodeCommand, h]

theorem decodeCommand_hdrDataRole (w : Word) (h : opcodeOf w = 0x17#8) : decodeCommand w = formatH w (.hdrDataRole (headerField w)) := by
  simp [decodeCommand, h]

theorem decodeCommand_hdrPowerRole (w : Word) (h : opcodeOf w = 0x18#8) : decodeCommand w = formatH w (.hdrPowerRole (headerField w)) := by
  simp [decodeCommand, h]

end Sys2Proof
end

