-- ==== Sys2Proof/Laws/Outcome.lean ====
section
/-! SUPPORT. How a step ends: what `complete` and `answer` give, and which meanings only answer. -/

namespace Sys2Proof.Machine

/-- With no clock hold to come a step ends in the state it reached. -/
theorem complete_of_no_hold {before : State} (after : State) (h : before.sclHold = none) :
    complete before after = .next after := by
  simp [complete, h]

/-- What a step that ends leaves, whether or not a clock hold is to come: only `sclHold` may differ. -/
theorem complete_next {before after t : State} (h : complete before after = .next t) :
    t = { after with sclHold := t.sclHold } ∧ (before.sclHold = none → t = after) := by
  unfold complete at h
  split at h
  · cases h; exact ⟨rfl, fun _ => rfl⟩
  · split at h
    · cases h; exact ⟨rfl, fun hn => by simp_all⟩
    · cases h

/-- A step without traffic ends whatever the clock does. -/
theorem complete_of_no_wire {before : State} (after : State) (hw : after.wire = [])
    (hh : after.sclHold = before.sclHold) : complete before after = .next after := by
  unfold complete
  split
  · rfl
  · rename_i k hk
    have hb : busBytes after.wire = 0 := by simp [hw, busBytes]
    rw [hb, if_pos (Nat.zero_le _)]
    congr 1
    apply State.ext <;> simp [hk, hh]

/-- A command that only answers completes in every state and changes nothing else (R160, R108, R109). -/
theorem answer_eq (status : BitVec 2) (value : Word) (s : State) :
    answer status value s = .next { s with trace := [], wire := [], resp := some ⟨status, value⟩ } :=
  complete_of_no_wire (before := s) (s.begin.respond status value) rfl rfl

theorem illegalOperand_eq (s : State) :
    illegalOperand s = .next { s with trace := [], wire := [], resp := some ⟨2#2, 0#32⟩ } := answer_eq ..

theorem illegalCommand_eq (s : State) :
    illegalCommand s = .next { s with trace := [], wire := [], resp := some ⟨1#2, 0#32⟩ } := answer_eq ..

theorem completeOr_ok {before : State} (after : State) : completeOr before (.ok after) = complete before after := rfl

theorem revLegal_eq (rev : BitVec 2) : revLegal rev = true ↔ rev ≠ 0#2 := by
  unfold revLegal
  simp

theorem numObjsLegal_eq (n : BitVec 3) : numObjsLegal n = true ↔ n ≠ 0#3 := by
  unfold numObjsLegal
  simp

end Sys2Proof.Machine
end

