-- ==== Sys2Proof/Laws/Effects.lean ====
section
/-! SUPPORT. What each sub-sequence of the block leaves in every field it can name, and what it does (`doings`). The fields
left out of a conjunction are those whose value depends on what the environment answers. -/

namespace Sys2Proof.Machine

/-! Doings. -/

@[simp] theorem doings_nil : doings [] = [] := rfl

@[simp] theorem doings_append (xs ys : List Act) : doings (xs ++ ys) = doings xs ++ doings ys :=
  List.filterMap_append

@[simp] theorem doings_cons_millis (t : Word) (xs : List Act) : doings (.millis t :: xs) = .millis :: doings xs := rfl

@[simp] theorem doings_cons_intN (b : Bool) (xs : List Act) : doings (.intN b :: xs) = .intN :: doings xs := rfl

@[simp] theorem doings_cons_pulse (xs : List Act) : doings (.pulse :: xs) = .pulse :: doings xs := rfl

@[simp] theorem doings_cons_delay (a b : Word) (xs : List Act) : doings (.delay a b :: xs) = .delay :: doings xs := rfl

@[simp] theorem doings_cons_protocolTimeout (xs : List Act) :
    doings (.raise .protocolTimeout :: xs) = .raise .protocolTimeout :: doings xs := rfl

@[simp] theorem doings_cons_chipHardReset (xs : List Act) :
    doings (.raise .chipHardReset :: xs) = .raise .chipHardReset :: doings xs := rfl

@[simp] theorem doings_cons_retryFail (xs : List Act) :
    doings (.raise .retryFail :: xs) = .raise .retryFail :: doings xs := rfl

@[simp] theorem doings_cons_notSop (b : Byte) (xs : List Act) :
    doings (.raise (.notSop b) :: xs) = .raise (.notSop b) :: doings xs := rfl

@[simp] theorem doings_cons_badCrc (h : Header) (xs : List Act) :
    doings (.raise (.badCrc h) :: xs) = .raise (.badCrc h) :: doings xs := rfl

@[simp] theorem doings_cons_queueOverflow (e : Event) (xs : List Act) :
    doings (.raise (.queueOverflow e) :: xs) = .raise (.queueOverflow e) :: doings xs := rfl

/-- A bus error is left out. -/
@[simp] theorem doings_noteNack (whole : Bool) (reg : Byte) (d : Direction) :
    doings (if whole then [] else [.raise (.transientBusError reg d)]) = [] := by cases whole <;> rfl

/-- A write transaction, acknowledged or not, is that write (R325, R330). -/
@[simp] theorem State.regWrite_doings (s : State) (reg : Byte) (v : List Byte) :
    doings (s.regWrite reg v).trace = doings s.trace ++ [.write reg v] := by
  unfold State.regWrite State.regWriteEnding
  simp [doings, Act.doing]

/-- A read transaction, acknowledged or not, is that read (R326, R330). -/
@[simp] theorem State.regRead_doings (s : State) (reg : Byte) (n : Nat) :
    doings (s.regRead reg n).trace = doings s.trace ++ [.read reg n] := by
  unfold State.regRead State.readData
  simp [doings, Act.doing]

/-! The counter, the timer and the queue. -/

/-- `laterThan` in numbers: the draw's distance from `t`, its top bit cleared. -/
theorem laterThan_sub (t draw : Word) : (laterThan t draw - t).toNat = (draw - t).toNat % 2 ^ 31 := by
  have h : ∀ x : Word, (x &&& 0x7FFFFFFF#32).toNat = x.toNat % 2 ^ 31 := fun x => by
    rw [BitVec.toNat_and]
    exact Nat.and_two_pow_sub_one_eq_mod x.toNat 31
  rw [← h (draw - t), laterThan, BitVec.add_comm, BitVec.add_sub_cancel]

/-- A draw that keeps R24's constraint is the sample. -/
theorem laterThan_eq {t draw : Word} (h : (draw - t).toNat < 2 ^ 31) : laterThan t draw = draw := by
  have : laterThan t draw - t = draw - t :=
    BitVec.eq_of_toNat_eq (by rw [laterThan_sub, Nat.mod_eq_of_lt h])
  calc laterThan t draw = (laterThan t draw - t) + t := (BitVec.sub_add_cancel ..).symm
    _ = draw := by rw [this, BitVec.sub_add_cancel]

/-- The exit sample of a delay (R397). -/
def State.delayExit (s : State) (ms : Word) : Word := inTime s.millisNow ms (s.tick.millisIn.value Config.freeMillis)

/-- A sample in time is `ms` to `ms + 2^31 - 2` past the entry (R397, R24). -/
theorem inTime_sub (entry ms draw : Word) (h : ms.toNat < 2 ^ 31) :
    ms.toNat ≤ (inTime entry ms draw - entry).toNat ∧ (inTime entry ms draw - entry).toNat < ms.toNat + (2 ^ 31 - 1) := by
  unfold inTime
  split <;> bv_omega

/-- A draw that is in time is the sample. -/
theorem inTime_eq {entry ms draw : Word} (h : ms.toNat ≤ (draw - entry).toNat)
    (h' : (draw - entry).toNat < ms.toNat + (2 ^ 31 - 1)) : inTime entry ms draw = draw := by
  unfold inTime
  rw [if_pos]
  bv_omega

/-- The exit is at least `ms` past the entry (R397). -/
theorem State.delayExit_sub (s : State) (ms : Word) (h : ms.toNat < 2 ^ 31) :
    ms.toNat ≤ (s.delayExit ms - s.millisNow).toNat := (inTime_sub _ _ _ h).1

/-- A delay takes two samples (R397). -/
@[simp] theorem State.delay_fields (s : State) (ms : Word) :
    (s.delay ms).attach = s.attach ∧ (s.delay ms).measCc = s.measCc ∧ (s.delay ms).timerActive = s.timerActive ∧
    (s.delay ms).timerExp = s.timerExp ∧ (s.delay ms).nextMessageId = s.nextMessageId ∧
    (s.delay ms).intNMode = s.intNMode ∧ (s.delay ms).rxIdx = s.rxIdx ∧ (s.delay ms).rxRing = s.rxRing ∧
    (s.delay ms).txBuf = s.txBuf ∧ (s.delay ms).evq = s.evq ∧ (s.delay ms).resp = s.resp ∧
    (s.delay ms).trace = s.trace ++ [.delay s.millisNow (s.delayExit ms)] ∧ (s.delay ms).wire = s.wire ∧
    (s.delay ms).lines = s.lines ∧ (s.delay ms).txPos = s.txPos ∧ (s.delay ms).chipRegs = s.chipRegs ∧
    (s.delay ms).slotGen = s.slotGen ∧ (s.delay ms).held = s.held ∧
    (s.delay ms).lastMillis = some (s.delayExit ms) ∧ (s.delay ms).inbox = s.inbox ∧
    (s.delay ms).payloadPort = s.payloadPort ∧ (s.delay ms).chipIn = s.chipIn ∧
    (s.delay ms).millisIn = s.millisIn.next.next ∧ (s.delay ms).intNIn = s.intNIn ∧ (s.delay ms).ackIn = s.ackIn ∧
    (s.delay ms).sclHold = s.sclHold := by
  refine ⟨?_, ?_, ?_, ?_, ?_, ?_, ?_, ?_, ?_, ?_, ?_, ?_, ?_, ?_, ?_, ?_, ?_, ?_, ?_, ?_, ?_, ?_, ?_, ?_, ?_, ?_⟩ <;> rfl

/-- A push changes the queue or, where it is full, the trace (R141). -/
@[simp] theorem State.push_fields (s : State) (e : Event) :
    (s.push e).attach = s.attach ∧ (s.push e).measCc = s.measCc ∧ (s.push e).timerActive = s.timerActive ∧
    (s.push e).timerExp = s.timerExp ∧ (s.push e).nextMessageId = s.nextMessageId ∧
    (s.push e).intNMode = s.intNMode ∧ (s.push e).rxIdx = s.rxIdx ∧ (s.push e).rxRing = s.rxRing ∧
    (s.push e).txBuf = s.txBuf ∧ (s.push e).evq = (if s.evq.length = 6 then s.evq else s.evq ++ [e]) ∧
    (s.push e).resp = s.resp ∧
    (s.push e).trace = s.trace ++ (if s.evq.length = 6 then [.raise (.queueOverflow e)] else []) ∧
    (s.push e).wire = s.wire ∧ (s.push e).lines = s.lines ∧ (s.push e).txPos = s.txPos ∧
    (s.push e).chipRegs = s.chipRegs ∧ (s.push e).slotGen = s.slotGen ∧ (s.push e).held = s.held ∧
    (s.push e).lastMillis = s.lastMillis ∧ (s.push e).inbox = s.inbox ∧ (s.push e).payloadPort = s.payloadPort ∧
    (s.push e).chipIn = s.chipIn ∧ (s.push e).millisIn = s.millisIn ∧ (s.push e).intNIn = s.intNIn ∧
    (s.push e).ackIn = s.ackIn ∧ (s.push e).sclHold = s.sclHold := by
  by_cases h : s.evq.length = 6 <;> simp [State.push, Config.queueDepth, h]

/-! Initialisation and attach. -/

/-- `chip_bringup()` touches the chip, the bus and the counter only (R181). -/
@[simp] theorem chipBringup_fields (s : State) :
    (chipBringup s).attach = s.attach ∧ (chipBringup s).measCc = s.measCc ∧
    (chipBringup s).timerActive = s.timerActive ∧ (chipBringup s).timerExp = s.timerExp ∧
    (chipBringup s).nextMessageId = s.nextMessageId ∧ (chipBringup s).intNMode = s.intNMode ∧
    (chipBringup s).rxIdx = s.rxIdx ∧ (chipBringup s).rxRing = s.rxRing ∧ (chipBringup s).txBuf = s.txBuf ∧
    (chipBringup s).evq = s.evq ∧ (chipBringup s).resp = s.resp ∧ (chipBringup s).lines = Lines.idle ∧
    (chipBringup s).txPos = s.txPos ∧ (chipBringup s).slotGen = s.slotGen ∧ (chipBringup s).held = s.held ∧
    (chipBringup s).inbox = s.inbox ∧ (chipBringup s).payloadPort = s.payloadPort ∧
    (chipBringup s).chipIn = s.chipIn ∧ (chipBringup s).millisIn = s.millisIn.next.next ∧
    (chipBringup s).intNIn = s.intNIn ∧ (chipBringup s).sclHold = s.sclHold := by
  unfold chipBringup
  simp

/-- What the bring-up does (R181). -/
@[simp] theorem chipBringup_doings (s : State) : doings (chipBringup s).trace = doings s.trace ++
    [.write regReset [vResetAll], .delay, .write regPower [vPowerNoOsc], .write regMask [vMaskAll],
      .write regMaska [vMaskaAll], .write regMaskb [vMaskbAll]] := by
  unfold chipBringup
  simp

/-- `init_body()` (R182, R49). -/
@[simp] theorem initBody_fields (s : State) :
    (initBody s).attach = .usb20 ∧ (initBody s).measCc = none ∧ (initBody s).timerActive = false ∧
    (initBody s).timerExp = s.timerExp ∧ (initBody s).nextMessageId = 0#3 ∧ (initBody s).intNMode = s.intNMode ∧
    (initBody s).rxIdx = 0#2 ∧ (initBody s).rxRing = s.rxRing ∧ (initBody s).txBuf = s.txBuf ∧
    (initBody s).evq = [] ∧ (initBody s).resp = s.resp ∧ (initBody s).trace = (chipBringup s).trace ∧
    (initBody s).wire = (chipBringup s).wire ∧ (initBody s).lines = Lines.idle ∧ (initBody s).txPos = s.txPos ∧
    (initBody s).chipRegs = (chipBringup s).chipRegs ∧ (initBody s).slotGen = s.slotGen ∧
    (initBody s).held = s.held ∧ (initBody s).lastMillis = (chipBringup s).lastMillis ∧
    (initBody s).inbox = s.inbox ∧ (initBody s).payloadPort = s.payloadPort ∧ (initBody s).chipIn = s.chipIn ∧
    (initBody s).millisIn = s.millisIn.next.next ∧ (initBody s).intNIn = s.intNIn ∧
    (initBody s).ackIn = (chipBringup s).ackIn ∧ (initBody s).sclHold = s.sclHold := by
  unfold initBody
  simp

/-- `start_measurement(c)` (R191). -/
@[simp] theorem startMeasurement_fields (c : Cc) (s : State) :
    (startMeasurement c s).attach = s.attach ∧ (startMeasurement c s).measCc = some c ∧
    (startMeasurement c s).timerActive = true ∧
    (startMeasurement c s).timerExp = s.millisNow + Config.measTimeoutMs ∧
    (startMeasurement c s).nextMessageId = s.nextMessageId ∧ (startMeasurement c s).intNMode = s.intNMode ∧
    (startMeasurement c s).rxIdx = s.rxIdx ∧ (startMeasurement c s).rxRing = s.rxRing ∧
    (startMeasurement c s).txBuf = s.txBuf ∧ (startMeasurement c s).evq = s.evq ∧
    (startMeasurement c s).resp = s.resp ∧
    (startMeasurement c s).trace = (s.regWrite regSwitches0 [vSw0Meas c]).trace ++ [.millis s.millisNow] ∧
    (startMeasurement c s).wire = (s.regWrite regSwitches0 [vSw0Meas c]).wire ∧
    (startMeasurement c s).lines = Lines.idle ∧ (startMeasurement c s).txPos = s.txPos ∧
    (startMeasurement c s).chipRegs = (s.regWrite regSwitches0 [vSw0Meas c]).chipRegs ∧
    (startMeasurement c s).slotGen = s.slotGen ∧ (startMeasurement c s).held = s.held ∧
    (startMeasurement c s).lastMillis = some s.millisNow ∧ (startMeasurement c s).inbox = s.inbox ∧
    (startMeasurement c s).payloadPort = s.payloadPort ∧ (startMeasurement c s).chipIn = s.chipIn ∧
    (startMeasurement c s).millisIn = s.millisIn.next ∧ (startMeasurement c s).intNIn = s.intNIn ∧
    (startMeasurement c s).ackIn = (s.regWrite regSwitches0 [vSw0Meas c]).ackIn ∧
    (startMeasurement c s).sclHold = s.sclHold := by
  unfold startMeasurement
  simp [State.millisNow]

/-- The six writes of `enter_pd_wait(c)` touch the chip and the bus only (R194). -/
@[simp] theorem pdWaitWrites_fields (c : Cc) (s : State) :
    (pdWaitWrites c s).attach = s.attach ∧ (pdWaitWrites c s).measCc = s.measCc ∧
    (pdWaitWrites c s).timerActive = s.timerActive ∧ (pdWaitWrites c s).timerExp = s.timerExp ∧
    (pdWaitWrites c s).nextMessageId = s.nextMessageId ∧ (pdWaitWrites c s).intNMode = s.intNMode ∧
    (pdWaitWrites c s).rxIdx = s.rxIdx ∧ (pdWaitWrites c s).rxRing = s.rxRing ∧
    (pdWaitWrites c s).txBuf = s.txBuf ∧ (pdWaitWrites c s).evq = s.evq ∧ (pdWaitWrites c s).resp = s.resp ∧
    (pdWaitWrites c s).lines = Lines.idle ∧ (pdWaitWrites c s).txPos = s.txPos ∧
    (pdWaitWrites c s).slotGen = s.slotGen ∧ (pdWaitWrites c s).held = s.held ∧
    (pdWaitWrites c s).lastMillis = s.lastMillis ∧ (pdWaitWrites c s).inbox = s.inbox ∧
    (pdWaitWrites c s).payloadPort = s.payloadPort ∧ (pdWaitWrites c s).chipIn = s.chipIn ∧
    (pdWaitWrites c s).millisIn = s.millisIn ∧ (pdWaitWrites c s).intNIn = s.intNIn ∧
    (pdWaitWrites c s).sclHold = s.sclHold := by
  unfold pdWaitWrites
  simp

/-- What the six writes are (R194). -/
@[simp] theorem pdWaitWrites_doings (c : Cc) (s : State) : doings (pdWaitWrites c s).trace = doings s.trace ++
    [.write regControl3 [vCtrl3Pd], .write regMask [vMaskPd], .write regMaska [vMaskaPd], .write regMaskb [vMaskbPd],
      .write regSwitches1 [vSw1Pd c], .write regControl0 [vCtrl0Pd]] := by
  unfold pdWaitWrites
  simp

/-- `enter_pd_wait(c)` (R194). -/
@[simp] theorem enterPdWait_fields (c : Cc) (s : State) :
    (enterPdWait c s).attach = .usbPdWait ∧ (enterPdWait c s).measCc = none ∧
    (enterPdWait c s).timerActive = true ∧ (enterPdWait c s).timerExp = s.millisNow + Config.pdWaitTimeoutMs ∧
    (enterPdWait c s).nextMessageId = s.nextMessageId ∧ (enterPdWait c s).intNMode = .input ∧
    (enterPdWait c s).rxIdx = s.rxIdx ∧ (enterPdWait c s).rxRing = s.rxRing ∧ (enterPdWait c s).txBuf = s.txBuf ∧
    (enterPdWait c s).evq = s.evq ∧ (enterPdWait c s).resp = s.resp ∧
    (enterPdWait c s).trace = (pdWaitWrites c s.initIntN).trace ++ [.millis s.millisNow] ∧
    (enterPdWait c s).wire = (pdWaitWrites c s.initIntN).wire ∧ (enterPdWait c s).lines = Lines.idle ∧
    (enterPdWait c s).txPos = s.txPos ∧ (enterPdWait c s).chipRegs = (pdWaitWrites c s.initIntN).chipRegs ∧
    (enterPdWait c s).slotGen = s.slotGen ∧ (enterPdWait c s).held = s.held ∧
    (enterPdWait c s).lastMillis = some s.millisNow ∧ (enterPdWait c s).inbox = s.inbox ∧
    (enterPdWait c s).payloadPort = s.payloadPort ∧ (enterPdWait c s).chipIn = s.chipIn ∧
    (enterPdWait c s).millisIn = s.millisIn.next ∧ (enterPdWait c s).intNIn = s.intNIn ∧
    (enterPdWait c s).ackIn = (pdWaitWrites c s.initIntN).ackIn ∧ (enterPdWait c s).sclHold = s.sclHold := by
  unfold enterPdWait
  simp [State.millisNow]

/-- The sample `enter_retry_wait()` starts its timer at. -/
def retryStart (s : State) : Word := (initBody s).millisNow

/-- `enter_retry_wait()` (R196). -/
@[simp] theorem enterRetryWait_fields (s : State) :
    (enterRetryWait s).attach = .usbRetryWait ∧ (enterRetryWait s).measCc = none ∧
    (enterRetryWait s).timerActive = true ∧ (enterRetryWait s).timerExp = retryStart s + Config.retryWaitMs ∧
    (enterRetryWait s).nextMessageId = 0#3 ∧ (enterRetryWait s).intNMode = s.intNMode ∧
    (enterRetryWait s).rxIdx = 0#2 ∧ (enterRetryWait s).rxRing = s.rxRing ∧ (enterRetryWait s).txBuf = s.txBuf ∧
    (enterRetryWait s).evq = [.stateChanged] ∧ (enterRetryWait s).resp = s.resp ∧
    (enterRetryWait s).trace = (chipBringup s).trace ++ [.millis (retryStart s)] ∧
    (enterRetryWait s).wire = (chipBringup s).wire ∧ (enterRetryWait s).lines = Lines.idle ∧
    (enterRetryWait s).txPos = s.txPos ∧ (enterRetryWait s).chipRegs = (chipBringup s).chipRegs ∧
    (enterRetryWait s).slotGen = s.slotGen ∧ (enterRetryWait s).held = s.held ∧
    (enterRetryWait s).lastMillis = some (retryStart s) ∧ (enterRetryWait s).inbox = s.inbox ∧
    (enterRetryWait s).payloadPort = s.payloadPort ∧ (enterRetryWait s).chipIn = s.chipIn ∧
    (enterRetryWait s).millisIn = s.millisIn.next.next.next ∧ (enterRetryWait s).intNIn = s.intNIn ∧
    (enterRetryWait s).ackIn = (chipBringup s).ackIn ∧ (enterRetryWait s).sclHold = s.sclHold := by
  unfold enterRetryWait
  simp [retryStart, State.millisNow]

/-! Delays. -/

/-- Entry and exit of every delay of a trace. -/
def delays (trace : List Act) : List (Word × Word) :=
  trace.filterMap fun
    | .delay a b => some (a, b)
    | _ => none

theorem mem_delays (trace : List Act) (a b : Word) : Act.delay a b ∈ trace ↔ (a, b) ∈ delays trace := by
  unfold delays
  rw [List.mem_filterMap]
  constructor
  · exact fun h => ⟨_, h, rfl⟩
  · rintro ⟨x, hx, he⟩
    split at he
    · cases he; exact hx
    · cases he

@[simp] theorem delays_nil : delays [] = [] := rfl

@[simp] theorem delays_append (xs ys : List Act) : delays (xs ++ ys) = delays xs ++ delays ys :=
  List.filterMap_append

@[simp] theorem delays_cons_delay (a b : Word) (xs : List Act) : delays (.delay a b :: xs) = (a, b) :: delays xs := rfl

@[simp] theorem delays_cons_millis (t : Word) (xs : List Act) : delays (.millis t :: xs) = delays xs := rfl

@[simp] theorem delays_cons_intN (b : Bool) (xs : List Act) : delays (.intN b :: xs) = delays xs := rfl

@[simp] theorem delays_cons_pulse (xs : List Act) : delays (.pulse :: xs) = delays xs := rfl

@[simp] theorem delays_cons_raise (c : Condition) (xs : List Act) : delays (.raise c :: xs) = delays xs := rfl

@[simp] theorem State.regWrite_delays (s : State) (reg : Byte) (v : List Byte) :
    delays (s.regWrite reg v).trace = delays s.trace := by
  unfold State.regWrite State.regWriteEnding
  simp [delays]

@[simp] theorem State.regRead_delays (s : State) (reg : Byte) (n : Nat) :
    delays (s.regRead reg n).trace = delays s.trace := by
  unfold State.regRead
  simp [delays]

/-- The bring-up has one delay, of at least 10 ms (R181, R397). -/
theorem chipBringup_delays (s : State) : ∃ entry exit, delays (chipBringup s).trace = delays s.trace ++ [(entry, exit)] ∧
    10 ≤ (exit - entry).toNat := by
  refine ⟨(s.regWrite regReset [vResetAll]).millisNow, (s.regWrite regReset [vResetAll]).delayExit 10#32, ?_,
    State.delayExit_sub _ 10#32 (by decide)⟩
  unfold chipBringup
  simp [Config.resetDelayMs]

/-! Where the target acknowledges. -/

theorem allAcked_add {m n : Nat} {s : State} : AllAcked (m + n) s ↔
    AllAcked m s ∧ Input.values Config.freeAck n (Input.skip m s.ackIn) = List.replicate n true := by
  unfold AllAcked
  rw [Input.values_add, ← List.replicate_append_replicate]
  constructor
  · exact fun h => List.append_inj h (by simp)
  · rintro ⟨h1, h2⟩; rw [h1, h2]

/-- A write the target acknowledges (R325). -/
theorem State.regWrite_acked {s : State} (reg : Byte) (v : List Byte) (h : AllAcked (v.length + 2) s) :
    (s.regWrite reg v).chipRegs = noteWrite reg v s.chipRegs ∧
    (s.regWrite reg v).ackIn = Input.skip (v.length + 2) s.ackIn ∧
    (s.regWrite reg v).trace = s.trace ++ [.write reg v (v.length + 2)] ∧
    (s.regWrite reg v).wire
      = s.wire ++ (openingSym s.lines :: .sent addrWrite true :: .sent reg true :: v.map (BusSym.sent · true) ++ [.stop]) := by
  have hs := sendBytes_all_acked (addrWrite :: reg :: v) s.ackIn h
  unfold State.regWrite State.regWriteEnding
  simp [hs]

/-- A read whose sent bytes the target acknowledges (R326). -/
theorem State.regRead_acked {s : State} (reg : Byte) (n : Nat) (h : AllAcked 3 s) :
    (s.regRead reg n).ackIn = Input.skip 3 s.ackIn ∧
    (s.regRead reg n).trace = s.trace ++ [.read reg (s.readData n) 3] ∧
    (s.regRead reg n).wire = s.wire ++ (openingSym s.lines :: .sent addrWrite true :: .sent reg true :: .restart ::
      .sent addrRead true :: receivedSyms (s.readData n) ++ [.stop]) := by
  have h2 := allAcked_add.1 (show AllAcked (2 + 1) s from h)
  have e1 := sendBytes_all_acked [addrWrite, reg] s.ackIn h2.1
  have e2 := sendBytes_all_acked [addrRead] (Input.skip 2 s.ackIn) h2.2
  have e3 : sendRead reg s.ackIn = ⟨[.sent addrWrite true, .sent reg true, .restart, .sent addrRead true], 3,
      Input.skip 3 s.ackIn⟩ := by
    simp only [sendRead, e1]
    simp [e2, Input.skip_skip]
  unfold State.regRead
  simp [e3]

/-- The bus bytes of a write (R327). -/
theorem State.regWrite_busBytes {s : State} (reg : Byte) (v : List Byte) (h : AllAcked (v.length + 2) s) :
    busBytes (s.regWrite reg v).wire = busBytes s.wire + (2 + v.length) := by
  rw [(State.regWrite_acked reg v h).2.2.2, busBytes_append]
  unfold openingSym
  split <;> simp [busBytes, busBytes_append, busBytes_sent] <;> omega

/-- The bus bytes of a read (R327). -/
theorem State.regRead_busBytes {s : State} (reg : Byte) (n : Nat) (h : AllAcked 3 s) :
    busBytes (s.regRead reg n).wire = busBytes s.wire + (3 + n) := by
  rw [(State.regRead_acked reg n h).2.2, busBytes_append]
  unfold openingSym State.readData
  split <;> simp [busBytes, busBytes_append, busBytes_received] <;> omega

/-- One acknowledged one-byte write, and the acknowledges left for what follows. -/
theorem State.regWrite1_acked {n : Nat} {s : State} (reg b : Byte) (h : AllAcked (3 + n) s) :
    (s.regWrite reg [b]).chipRegs = noteWrite reg [b] s.chipRegs ∧
    busBytes (s.regWrite reg [b]).wire = busBytes s.wire + 3 ∧ AllAcked n (s.regWrite reg [b]) := by
  have h2 := allAcked_add.1 h
  refine ⟨(State.regWrite_acked reg [b] h2.1).1, State.regWrite_busBytes reg [b] h2.1, ?_⟩
  unfold AllAcked
  rw [(State.regWrite_acked reg [b] h2.1).2.1]
  exact h2.2

/-- One acknowledged read, and the acknowledges left for what follows. -/
theorem State.regRead_acked_next {n : Nat} {s : State} (reg : Byte) (k : Nat) (h : AllAcked (3 + n) s) :
    busBytes (s.regRead reg k).wire = busBytes s.wire + (3 + k) ∧ AllAcked n (s.regRead reg k) := by
  have h2 := allAcked_add.1 h
  refine ⟨State.regRead_busBytes reg k h2.1, ?_⟩
  unfold AllAcked
  rw [(State.regRead_acked reg k h2.1).1]
  exact h2.2

/-- AllAcked looks at the acknowledge draws only. -/
theorem AllAcked.congr {n : Nat} {s t : State} (h : AllAcked n s) (e : t.ackIn = s.ackIn) : AllAcked n t := by
  unfold AllAcked
  rw [e]
  exact h

/-- The chip after an acknowledged bring-up (R181, R47). -/
theorem chipBringup_acked {n : Nat} {s : State} (h : AllAcked (3 + (3 + (3 + (3 + (3 + n))))) s) :
    (chipBringup s).chipRegs = noteWrite regMaskb [vMaskbAll] (noteWrite regMaska [vMaskaAll]
      (noteWrite regMask [vMaskAll] (noteWrite regPower [vPowerNoOsc] []))) ∧
    busBytes (chipBringup s).wire = busBytes s.wire + 15 ∧ AllAcked n (chipBringup s) := by
  have a1 := State.regWrite1_acked regReset vResetAll h
  have a1' : AllAcked (3 + (3 + (3 + (3 + n)))) ((s.regWrite regReset [vResetAll]).delay Config.resetDelayMs) :=
    a1.2.2.congr (by simp)
  have a2 := State.regWrite1_acked regPower vPowerNoOsc a1'
  have a3 := State.regWrite1_acked regMask vMaskAll a2.2.2
  have a4 := State.regWrite1_acked regMaska vMaskaAll a3.2.2
  have a5 := State.regWrite1_acked regMaskb vMaskbAll a4.2.2
  refine ⟨?_, ?_, a5.2.2⟩
  · simp only [chipBringup, State.regWrite1_eq]
    rw [a5.1, a4.1, a3.1, a2.1]
    simp only [State.delay_fields, a1.1]
    rfl
  · simp only [chipBringup, State.regWrite1_eq]
    rw [a5.2.1, a4.2.1, a3.2.1, a2.2.1]
    simp [a1.2.1]

/-- The chip after the six acknowledged writes of `enter_pd_wait(c)` (R194, R47). -/
theorem pdWaitWrites_acked {n : Nat} {c : Cc} {s : State} (h : AllAcked (3 + (3 + (3 + (3 + (3 + (3 + n)))))) s) :
    (pdWaitWrites c s).chipRegs = noteWrite regControl0 [vCtrl0Pd] (noteWrite regSwitches1 [vSw1Pd c]
      (noteWrite regMaskb [vMaskbPd] (noteWrite regMaska [vMaskaPd] (noteWrite regMask [vMaskPd]
        (noteWrite regControl3 [vCtrl3Pd] s.chipRegs))))) ∧
    busBytes (pdWaitWrites c s).wire = busBytes s.wire + 18 ∧ AllAcked n (pdWaitWrites c s) := by
  have a1 := State.regWrite1_acked regControl3 vCtrl3Pd h
  have a2 := State.regWrite1_acked regMask vMaskPd a1.2.2
  have a3 := State.regWrite1_acked regMaska vMaskaPd a2.2.2
  have a4 := State.regWrite1_acked regMaskb vMaskbPd a3.2.2
  have a5 := State.regWrite1_acked regSwitches1 (vSw1Pd c) a4.2.2
  have a6 := State.regWrite1_acked regControl0 vCtrl0Pd a5.2.2
  refine ⟨?_, ?_, a6.2.2⟩
  · simp only [pdWaitWrites, State.regWrite1_eq]
    rw [a6.1, a5.1, a4.1, a3.1, a2.1, a1.1]
  · simp only [pdWaitWrites, State.regWrite1_eq]
    rw [a6.2.1, a5.2.1, a4.2.1, a3.2.1, a2.2.1, a1.2.1]

/-! The timer test and POLL's branches. -/

/-- `timer_expired()` in numbers (R283). -/
theorem State.timerExpired_iff (s : State) : s.timerExpired = true ↔ Expired s := by
  unfold State.timerExpired Expired
  rw [Bool.and_eq_true, decide_eq_true_iff]
  refine and_congr_right fun _ => ?_
  rw [BitVec.lt_def, BitVec.toNat_sub]
  have h1 := s.timerExp.isLt
  have h2 := s.millisNow.isLt
  simp only [Config.expiryWindow, BitVec.toNat_ofNat]
  omega

/-- What the test reads. -/
theorem Expired.congr {s t : State} (h : Expired s) (h1 : t.timerActive = s.timerActive) (h2 : t.timerExp = s.timerExp)
    (h3 : t.millisNow = s.millisNow) : Expired t := by
  unfold Expired
  rw [h1, h2, h3]
  exact h

/-- The next sample depends on the counter's draws and the last sample only. -/
theorem State.millisNow_congr {s t : State} (h1 : t.millisIn = s.millisIn) (h2 : t.lastMillis = s.lastMillis) :
    t.millisNow = s.millisNow := by
  unfold State.millisNow
  rw [h1, h2]

theorem State.timerExpired_congr {s t : State} (h0 : t.timerActive = s.timerActive) (h3 : t.timerExp = s.timerExp)
    (h1 : t.millisIn = s.millisIn) (h2 : t.lastMillis = s.lastMillis) : t.timerExpired = s.timerExpired := by
  unfold State.timerExpired
  rw [h0, h3, State.millisNow_congr h1 h2]

/-- The timer check of an expired timer takes its sample (R283). -/
theorem State.afterTimerCheck_active {s : State} (h : s.timerActive = true) : s.afterTimerCheck = s.sampleMillis := by
  simp [State.afterTimerCheck, h]

theorem State.afterTimerCheck_inactive {s : State} (h : s.timerActive = false) : s.afterTimerCheck = s := by
  simp [State.afterTimerCheck, h]

/-- The interrupt branch of POLL (R201). -/
theorem pollBody_interrupt {s : State} (h : s.attach ≠ .usb20) (hi : s.intNLow = true) :
    pollBody s = handleInterrupts s.sampleIntN := by
  simp [pollBody, h, hi]

/-- The timer branch of POLL outside `Usb20` (R201). -/
theorem pollBody_timer {s : State} (h : s.attach ≠ .usb20) (hi : s.intNLow = false) :
    pollBody s = pollTimer s.sampleIntN := by
  simp [pollBody, h, hi]

/-- POLL in `Usb20` does not sample INT_N (R201). -/
theorem pollBody_usb20 {s : State} (h : s.attach = .usb20) : pollBody s = pollTimer s := by
  simp [pollBody, h]

/-- The timer branch of POLL where the timer has expired. -/
theorem pollTimer_expired {s : State} (h : Expired s) : pollTimer s = onExpiry s.sampleMillis := by
  unfold pollTimer
  rw [if_pos (s.timerExpired_iff.2 h), State.afterTimerCheck_active h.1]

/-- The timer branch of POLL where it has not. -/
theorem pollTimer_not_expired {s : State} (h : ¬ Expired s) : pollTimer s = .ok s.afterTimerCheck := by
  unfold pollTimer
  rw [if_neg (fun e => h (s.timerExpired_iff.1 e))]

/-- POLL where its body ends. -/
theorem execPoll_ok {s t : State} (h : pollBody s.begin = .ok t) (hs : s.sclHold = none) :
    exec .poll s = .next (t.respond 0#2 0#32) := by
  simp [exec, execPoll, h, respondOk, completeOr, complete, hs]

/-- STATUS0.BC_LVL in numbers (R63). -/
theorem bcLvl_eq (b : Byte) : bcLvl b = 0#2 ↔ b.toNat % 4 = 0 := by
  unfold bcLvl
  rw [BitVec.toNat_eq, BitVec.extractLsb'_toNat]
  simp

/-- The timer test takes at most one sample and changes nothing else (R283, R284). -/
@[simp] theorem State.afterTimerCheck_fields (s : State) :
    s.afterTimerCheck.attach = s.attach ∧ s.afterTimerCheck.measCc = s.measCc ∧
    s.afterTimerCheck.timerActive = s.timerActive ∧ s.afterTimerCheck.timerExp = s.timerExp ∧
    s.afterTimerCheck.nextMessageId = s.nextMessageId ∧ s.afterTimerCheck.intNMode = s.intNMode ∧
    s.afterTimerCheck.rxIdx = s.rxIdx ∧ s.afterTimerCheck.rxRing = s.rxRing ∧ s.afterTimerCheck.txBuf = s.txBuf ∧
    s.afterTimerCheck.evq = s.evq ∧ s.afterTimerCheck.resp = s.resp ∧ s.afterTimerCheck.wire = s.wire ∧
    s.afterTimerCheck.lines = s.lines ∧ s.afterTimerCheck.txPos = s.txPos ∧
    s.afterTimerCheck.chipRegs = s.chipRegs ∧ s.afterTimerCheck.slotGen = s.slotGen ∧
    s.afterTimerCheck.held = s.held ∧ s.afterTimerCheck.inbox = s.inbox ∧
    s.afterTimerCheck.payloadPort = s.payloadPort ∧ s.afterTimerCheck.chipIn = s.chipIn ∧
    s.afterTimerCheck.intNIn = s.intNIn ∧ s.afterTimerCheck.ackIn = s.ackIn ∧
    s.afterTimerCheck.sclHold = s.sclHold := by
  unfold State.afterTimerCheck
  split <;> simp

end Sys2Proof.Machine
end

