-- ==== Sys2Proof/Laws/Receive.lean ====
section
/-! SUPPORT. What the receive path can do, said once: the entry into `UsbPd`, an accepted frame, a frame, the drain, the
interrupt pass. The fields named in an update are the only ones that may change. -/

namespace Sys2Proof.Machine

/-- Entry into `UsbPd` (R231). -/
@[simp] theorem enterUsbPd_fields (s : State) :
    (enterUsbPd s).attach = .usbPd ∧ (enterUsbPd s).measCc = s.measCc ∧
    (enterUsbPd s).timerActive = (if s.attach = .usbPd then s.timerActive else false) ∧
    (enterUsbPd s).timerExp = s.timerExp ∧ (enterUsbPd s).nextMessageId = s.nextMessageId ∧
    (enterUsbPd s).intNMode = s.intNMode ∧ (enterUsbPd s).rxIdx = s.rxIdx ∧ (enterUsbPd s).rxRing = s.rxRing ∧
    (enterUsbPd s).txBuf = s.txBuf ∧ (enterUsbPd s).resp = s.resp ∧ (enterUsbPd s).wire = s.wire ∧
    (enterUsbPd s).lines = s.lines ∧ (enterUsbPd s).txPos = s.txPos ∧ (enterUsbPd s).chipRegs = s.chipRegs ∧
    (enterUsbPd s).slotGen = s.slotGen ∧ (enterUsbPd s).held = s.held ∧ (enterUsbPd s).lastMillis = s.lastMillis ∧
    (enterUsbPd s).inbox = s.inbox ∧ (enterUsbPd s).payloadPort = s.payloadPort ∧
    (enterUsbPd s).chipIn = s.chipIn ∧ (enterUsbPd s).millisIn = s.millisIn ∧ (enterUsbPd s).intNIn = s.intNIn ∧
    (enterUsbPd s).ackIn = s.ackIn ∧ (enterUsbPd s).sclHold = s.sclHold := by
  unfold enterUsbPd
  split <;> simp_all

/-- The events an accepted frame pushes (R231, R232). -/
def acceptedEvents (h : Header) (s : State) : List Event :=
  (if s.attach = .usbPd then [] else [.stateChanged]) ++ [.messageReceived h s.rxIdx (s.generation s.rxIdx)]

/-- An accepted frame (R231, R232). -/
@[simp] theorem acceptFrame_fields (h : Header) (s : State) :
    (acceptFrame h s).attach = .usbPd ∧ (acceptFrame h s).measCc = s.measCc ∧
    (acceptFrame h s).timerActive = (if s.attach = .usbPd then s.timerActive else false) ∧
    (acceptFrame h s).timerExp = s.timerExp ∧ (acceptFrame h s).nextMessageId = s.nextMessageId ∧
    (acceptFrame h s).intNMode = s.intNMode ∧ (acceptFrame h s).rxIdx = s.rxIdx + 1#2 ∧
    (acceptFrame h s).rxRing = s.rxRing ∧ (acceptFrame h s).txBuf = s.txBuf ∧ (acceptFrame h s).resp = s.resp ∧
    (acceptFrame h s).wire = s.wire ∧ (acceptFrame h s).lines = s.lines ∧ (acceptFrame h s).txPos = s.txPos ∧
    (acceptFrame h s).chipRegs = s.chipRegs ∧ (acceptFrame h s).slotGen = s.slotGen ∧
    (acceptFrame h s).held = s.held ∧ (acceptFrame h s).lastMillis = s.lastMillis ∧
    (acceptFrame h s).inbox = s.inbox ∧ (acceptFrame h s).payloadPort = s.payloadPort ∧
    (acceptFrame h s).chipIn = s.chipIn ∧ (acceptFrame h s).millisIn = s.millisIn ∧
    (acceptFrame h s).intNIn = s.intNIn ∧ (acceptFrame h s).ackIn = s.ackIn ∧
    (acceptFrame h s).sclHold = s.sclHold := by
  unfold acceptFrame
  simp

/-- What does not fit in the queue is dropped, and recorded (R141, R232). -/
theorem acceptFrame_queue (h : Header) (s : State) (hq : s.evq.length ≤ 6) :
    (acceptFrame h s).evq = s.evq ++ (acceptedEvents h s).take (6 - s.evq.length) ∧
    (acceptFrame h s).trace
      = s.trace ++ ((acceptedEvents h s).drop (6 - s.evq.length)).map (fun e => Act.raise (.queueOverflow e)) := by
  have g : ∀ (t : State) (k : BitVec 2), t.slotGen = s.slotGen → t.generation k = s.generation k := by
    intro t k e; unfold State.generation; rw [e]
  unfold acceptFrame acceptedEvents
  simp only [State.push_fields, enterUsbPd_fields]
  rw [g (enterUsbPd s) s.rxIdx (by simp)]
  unfold enterUsbPd
  by_cases ha : s.attach = .usbPd
  · by_cases h6 : s.evq.length = 6
    · simp [ha, h6]
    · rw [show 6 - s.evq.length = (5 - s.evq.length) + 1 by omega]
      simp [ha, h6]
  · by_cases h6 : s.evq.length = 6
    · simp [ha, h6]
    · by_cases h5 : s.evq.length = 5
      · simp [ha, h5]
      · rw [show 6 - s.evq.length = (4 - s.evq.length) + 2 by omega]
        simp [ha, h6, h5]

/-- The queue never grows past its six places (R41). -/
theorem acceptFrame_length (h : Header) (s : State) (hq : s.evq.length ≤ 6) : (acceptFrame h s).evq.length ≤ 6 := by
  rw [(acceptFrame_queue h s hq).1, List.length_append, List.length_take]
  omega

/-- The verdict on a stored frame: nothing, BadCrc recorded, or an accepted frame (R226, R228). -/
theorem judgeFrame_cases (h : Header) (status0 : Byte) (s : State) :
    judgeFrame h status0 s = s ∨ judgeFrame h status0 s = s.raise (.badCrc h) ∨
    judgeFrame h status0 s = acceptFrame h s := by
  unfold judgeFrame
  split
  · split
    · exact .inl rfl
    · exact .inr (.inr rfl)
  · exact .inr (.inl rfl)

/-- The state at which the verdict on a frame is given (R225, R226). -/
def frameStored (h : Header) (s : State) : State :=
  ((s.regRead regFifos (payloadLength h + 4)).storeFrame (s.readData (payloadLength h + 4))).regRead regStatus0 1

/-- A frame in two parts. -/
theorem receiveFrame_eq (h : Header) (s : State) : receiveFrame h s
    = judgeFrame h ((Input.skip (payloadLength h + 4) s.chipIn).value Config.freeChipByte) (frameStored h s) := by
  simp [receiveFrame, frameStored, State.readByte]

/-- Storing a frame (R225, R151). -/
@[simp] theorem frameStored_fields (h : Header) (s : State) :
    (frameStored h s).attach = s.attach ∧ (frameStored h s).measCc = s.measCc ∧
    (frameStored h s).timerActive = s.timerActive ∧ (frameStored h s).timerExp = s.timerExp ∧
    (frameStored h s).nextMessageId = s.nextMessageId ∧ (frameStored h s).intNMode = s.intNMode ∧
    (frameStored h s).rxIdx = s.rxIdx ∧
    (frameStored h s).rxRing = s.rxRing.writeList (ringAddress s.rxIdx 0) (s.readData (payloadLength h + 4)) ∧
    (frameStored h s).txBuf = s.txBuf ∧ (frameStored h s).evq = s.evq ∧ (frameStored h s).resp = s.resp ∧
    doings (frameStored h s).trace
      = doings s.trace ++ [.read regFifos (payloadLength h + 4), .read regStatus0 1] ∧
    (frameStored h s).lines = Lines.idle ∧ (frameStored h s).txPos = s.txPos ∧
    (frameStored h s).chipRegs = s.chipRegs ∧
    (frameStored h s).slotGen = s.slotGen.set s.rxIdx.toNat (s.generation s.rxIdx + 1) ∧
    (frameStored h s).held = s.held ∧ (frameStored h s).lastMillis = s.lastMillis ∧
    (frameStored h s).inbox = s.inbox ∧ (frameStored h s).payloadPort = s.payloadPort ∧
    (frameStored h s).chipIn = Input.skip (payloadLength h + 5) s.chipIn ∧
    (frameStored h s).millisIn = s.millisIn ∧ (frameStored h s).intNIn = s.intNIn ∧
    (frameStored h s).sclHold = s.sclHold := by
  unfold frameStored
  simp [State.generation, Input.skip_skip]

/-- One frame touches the receive path, the bus and the draws only, and leaves the bus idle (R222 to R233). -/
@[simp] theorem deframe_fields (s : State) :
    (deframe s).2.measCc = s.measCc ∧ (deframe s).2.timerExp = s.timerExp ∧
    (deframe s).2.nextMessageId = s.nextMessageId ∧ (deframe s).2.intNMode = s.intNMode ∧
    (deframe s).2.txBuf = s.txBuf ∧ (deframe s).2.resp = s.resp ∧ (deframe s).2.lines = Lines.idle ∧
    (deframe s).2.txPos = s.txPos ∧ (deframe s).2.held = s.held ∧ (deframe s).2.lastMillis = s.lastMillis ∧
    (deframe s).2.inbox = s.inbox ∧ (deframe s).2.payloadPort = s.payloadPort ∧
    (deframe s).2.millisIn = s.millisIn ∧ (deframe s).2.intNIn = s.intNIn ∧ (deframe s).2.sclHold = s.sclHold := by
  unfold deframe
  simp only
  split
  · rw [receiveFrame_eq]
    rcases judgeFrame_cases _ _ (frameStored _ _) with e | e | e <;> rw [e] <;> simp
  · simp [dropNonSop]

/-- What a frame does to the ring, the queue, the attach state and the chip, in one place: it is dropped as no SOP frame,
or stored and then left, recorded as BadCrc, or accepted. -/
theorem deframe_cases (s : State) :
    (deframe s).2 = dropNonSop ((s.readData 3).getD 0 0#8) (s.regRead regFifos 3) ∨
    ∃ h, (deframe s).2 = frameStored h (s.regRead regFifos 3) ∨
      (deframe s).2 = (frameStored h (s.regRead regFifos 3)).raise (.badCrc h) ∨
      (deframe s).2 = acceptFrame h (frameStored h (s.regRead regFifos 3)) := by
  unfold deframe
  simp only
  split
  · refine .inr ⟨headerOf ((s.readData 3).getD 1 0#8) ((s.readData 3).getD 2 0#8), ?_⟩
    rw [receiveFrame_eq]
    exact judgeFrame_cases _ _ _
  · exact .inl rfl

/-- The drain keeps what its STATUS1 read and its frames keep. -/
theorem drain_induct {P : State → Prop} (hread : ∀ s, P s → P (s.regRead1 regStatus1))
    (hframe : ∀ s, P s → P (deframe s).2) {k : Nat} {s t : State} (h : drain k s = .ok t) (hs : P s) : P t := by
  induction k generalizing s with
  | zero => cases h
  | succ k ih =>
    rw [drain] at h
    split at h
    · cases h; exact hread s hs
    · split at h
      · exact ih h (hframe _ (hread s hs))
      · cases h; exact hframe _ (hread s hs)

/-- The drain touches the receive path, the bus and the draws only (R222 to R233). -/
theorem drain_fields {k : Nat} {s t : State} (h : drain k s = .ok t) :
    t.measCc = s.measCc ∧ t.timerExp = s.timerExp ∧ t.nextMessageId = s.nextMessageId ∧ t.intNMode = s.intNMode ∧
    t.txBuf = s.txBuf ∧ t.resp = s.resp ∧ t.lines = Lines.idle ∧ t.txPos = s.txPos ∧ t.held = s.held ∧
    t.lastMillis = s.lastMillis ∧ t.inbox = s.inbox ∧ t.payloadPort = s.payloadPort ∧ t.millisIn = s.millisIn ∧
    t.intNIn = s.intNIn ∧ t.sclHold = s.sclHold := by
  have hl : t.lines = Lines.idle := by
    cases k with
    | zero => cases h
    | succ k =>
      rw [drain] at h
      split at h
      · cases h; simp
      · split at h
        · exact drain_induct (P := fun u => u.lines = Lines.idle) (by simp) (by simp) h (by simp)
        · cases h; simp
  have := drain_induct (P := fun u =>
    u.measCc = s.measCc ∧ u.timerExp = s.timerExp ∧ u.nextMessageId = s.nextMessageId ∧ u.intNMode = s.intNMode ∧
    u.txBuf = s.txBuf ∧ u.resp = s.resp ∧ u.txPos = s.txPos ∧ u.held = s.held ∧ u.lastMillis = s.lastMillis ∧
    u.inbox = s.inbox ∧ u.payloadPort = s.payloadPort ∧ u.millisIn = s.millisIn ∧ u.intNIn = s.intNIn ∧
    u.sclHold = s.sclHold) (by simp) (by simp) h (by simp)
  simp_all

/-! The interrupt pass. -/

/-- The state after the three interrupt reads, I_RETRYFAIL and I_TXSENT (R220, R221). -/
def passed (s : State) : State :=
  handleTxSent (s.regRead regInterrupt 1).readByte (noteRetryFail (s.regRead regInterrupt 1).readByte
    (((s.regRead regInterrupt 1).regRead regInterrupta 1).regRead regInterruptb 1))

/-- The state after the three interrupt reads with I_HARDRST set (R220, R365). -/
def passedHardReset (s : State) : State :=
  (((s.regRead regInterrupt 1).regRead regInterrupta 1).regRead regInterruptb 1).raise .chipHardReset

/-- The three ways of an interrupt pass (R220). -/
theorem handleInterrupts_eq (s : State) : handleInterrupts s =
    if iHardRst (s.regRead regInterrupt 1).readByte then .ok (enterRetryWait (passedHardReset s))
    else if drainTriggered s.readByte ((s.regRead regInterrupt 1).regRead regInterrupta 1).readByte
      then drainRx (passed s) else .ok (passed s) := by
  simp only [handleInterrupts, passed, passedHardReset, State.regRead1_eq]
  rfl

/-- I_RETRYFAIL changes the trace only (R221). -/
@[simp] theorem noteRetryFail_fields (b : Byte) (s : State) :
    (noteRetryFail b s).attach = s.attach ∧ (noteRetryFail b s).measCc = s.measCc ∧
    (noteRetryFail b s).timerActive = s.timerActive ∧ (noteRetryFail b s).timerExp = s.timerExp ∧
    (noteRetryFail b s).nextMessageId = s.nextMessageId ∧ (noteRetryFail b s).intNMode = s.intNMode ∧
    (noteRetryFail b s).rxIdx = s.rxIdx ∧ (noteRetryFail b s).rxRing = s.rxRing ∧
    (noteRetryFail b s).txBuf = s.txBuf ∧ (noteRetryFail b s).evq = s.evq ∧ (noteRetryFail b s).resp = s.resp ∧
    (noteRetryFail b s).trace = s.trace ++ (if iRetryFail b then [.raise .retryFail] else []) ∧
    (noteRetryFail b s).wire = s.wire ∧ (noteRetryFail b s).lines = s.lines ∧ (noteRetryFail b s).txPos = s.txPos ∧
    (noteRetryFail b s).chipRegs = s.chipRegs ∧ (noteRetryFail b s).slotGen = s.slotGen ∧
    (noteRetryFail b s).held = s.held ∧ (noteRetryFail b s).lastMillis = s.lastMillis ∧
    (noteRetryFail b s).inbox = s.inbox ∧ (noteRetryFail b s).payloadPort = s.payloadPort ∧
    (noteRetryFail b s).chipIn = s.chipIn ∧ (noteRetryFail b s).millisIn = s.millisIn ∧
    (noteRetryFail b s).intNIn = s.intNIn ∧ (noteRetryFail b s).ackIn = s.ackIn ∧
    (noteRetryFail b s).sclHold = s.sclHold := by
  unfold noteRetryFail
  split <;> simp_all

/-- I_TXSENT reads STATUS1 and may switch the oscillator off (R220, R256). -/
@[simp] theorem handleTxSent_fields (b : Byte) (s : State) :
    (handleTxSent b s).attach = s.attach ∧ (handleTxSent b s).measCc = s.measCc ∧
    (handleTxSent b s).timerActive = s.timerActive ∧ (handleTxSent b s).timerExp = s.timerExp ∧
    (handleTxSent b s).nextMessageId = s.nextMessageId ∧ (handleTxSent b s).intNMode = s.intNMode ∧
    (handleTxSent b s).rxIdx = s.rxIdx ∧ (handleTxSent b s).rxRing = s.rxRing ∧
    (handleTxSent b s).txBuf = s.txBuf ∧ (handleTxSent b s).evq = s.evq ∧ (handleTxSent b s).resp = s.resp ∧
    doings (handleTxSent b s).trace = doings s.trace ++ (if iTxSent b then
      .read regStatus1 1 :: (if txEmpty s.readByte then [.write regPower [vPowerNoOsc]] else []) else []) ∧
    (handleTxSent b s).lines = (if iTxSent b then Lines.idle else s.lines) ∧
    (handleTxSent b s).txPos = s.txPos ∧ (handleTxSent b s).slotGen = s.slotGen ∧
    (handleTxSent b s).held = s.held ∧ (handleTxSent b s).lastMillis = s.lastMillis ∧
    (handleTxSent b s).inbox = s.inbox ∧ (handleTxSent b s).payloadPort = s.payloadPort ∧
    (handleTxSent b s).chipIn = (if iTxSent b then Input.skip 1 s.chipIn else s.chipIn) ∧
    (handleTxSent b s).millisIn = s.millisIn ∧ (handleTxSent b s).intNIn = s.intNIn ∧
    (handleTxSent b s).sclHold = s.sclHold := by
  unfold handleTxSent txSent
  by_cases h : iTxSent b <;> by_cases h' : txEmpty s.readByte <;> simp [h, h']

/-- The pass touches the chip, the bus and the draws only (R220, R221, R256). -/
@[simp] theorem passed_fields (s : State) :
    (passed s).attach = s.attach ∧ (passed s).measCc = s.measCc ∧ (passed s).timerActive = s.timerActive ∧
    (passed s).timerExp = s.timerExp ∧ (passed s).nextMessageId = s.nextMessageId ∧
    (passed s).intNMode = s.intNMode ∧ (passed s).rxIdx = s.rxIdx ∧ (passed s).rxRing = s.rxRing ∧
    (passed s).txBuf = s.txBuf ∧ (passed s).evq = s.evq ∧ (passed s).resp = s.resp ∧
    (passed s).lines = Lines.idle ∧ (passed s).txPos = s.txPos ∧ (passed s).slotGen = s.slotGen ∧
    (passed s).held = s.held ∧ (passed s).lastMillis = s.lastMillis ∧ (passed s).inbox = s.inbox ∧
    (passed s).payloadPort = s.payloadPort ∧ (passed s).millisIn = s.millisIn ∧ (passed s).intNIn = s.intNIn ∧
    (passed s).sclHold = s.sclHold := by
  unfold passed
  simp

/-! The ring and the generations. -/

/-- A payload is at most 28 bytes (R105). -/
theorem payloadLength_le (h : Header) : payloadLength h ≤ 28 := by
  unfold payloadLength
  have := (numDataObjs h).isLt
  omega

/-- The slots do not overlap (R60). -/
theorem ringAddress_inj {k k' : BitVec 2} {o o' : Nat} (ho : o < 64) (ho' : o' < 64)
    (h : ringAddress k o = ringAddress k' o') : k = k' ∧ o = o' := by
  simp only [ringAddress, Config.rxSlotBytes] at h
  exact ⟨BitVec.eq_of_toNat_eq (by omega), by omega⟩

/-- Bytes written to a slot from offset 0: they stand there, and every other byte of the ring as before (R225). -/
theorem State.ringByte_writeList {s t : State} {slot : BitVec 2} (d : List Byte) (hd : d.length ≤ 64)
    (h : t.rxRing = s.rxRing.writeList (ringAddress slot 0) d) (k : BitVec 2) (o : Nat) (ho : o < 64) :
    t.ringByte k o = if k = slot ∧ o < d.length then d.getD o 0#8 else s.ringByte k o := by
  have hk := k.isLt
  have hs := slot.isLt
  unfold State.ringByte
  rw [h, Memory.read_writeList]
  by_cases hc : k = slot ∧ o < d.length
  · rw [if_pos hc, hc.1, if_pos (by simp only [ringAddress, Config.rxSlotBytes]; omega)]
    simp only [ringAddress, Config.rxSlotBytes, Nat.add_zero, Nat.add_sub_cancel_left]
    rw [List.getElem?_eq_getElem hc.2, Option.getD_some]
    simp [List.getD, List.getElem?_eq_getElem hc.2]
  · rw [if_neg hc, if_neg]
    intro hr
    refine hc ⟨?_, ?_⟩
    · simp only [ringAddress, Config.rxSlotBytes] at hr
      exact BitVec.eq_of_toNat_eq (by omega)
    · simp only [ringAddress, Config.rxSlotBytes] at hr
      omega

/-- The generation of the written slot moves on, the others stand (R151). -/
theorem State.generation_set {s t : State} {slot : BitVec 2}
    (h : t.slotGen = s.slotGen.set slot.toNat (s.generation slot + 1)) (k : BitVec 2) :
    t.generation k = if k = slot then s.generation k + 1 else s.generation k := by
  unfold State.generation at *
  simp only [h, Vector.getElem_set]
  by_cases hk : k = slot
  · simp [hk]
  · rw [if_neg hk, if_neg fun e => hk (BitVec.eq_of_toNat_eq e.symm)]

/-- The reads of the ring and of a generation depend on their fields only. -/
theorem State.ringByte_congr {s t : State} (h : t.rxRing = s.rxRing) (k : BitVec 2) (o : Nat) :
    t.ringByte k o = s.ringByte k o := by
  unfold State.ringByte
  rw [h]

theorem State.generation_congr {s t : State} (h : t.slotGen = s.slotGen) (k : BitVec 2) :
    t.generation k = s.generation k := by
  unfold State.generation
  simp only [h]

/-- One round of the drain (R222). -/
theorem drain_succ (k : Nat) (s : State) : drain (k + 1) s =
    if rxEmpty s.readByte then .ok (s.regRead regStatus1 1)
    else if (deframe (s.regRead regStatus1 1)).1 then drain k (deframe (s.regRead regStatus1 1)).2
      else .ok (deframe (s.regRead regStatus1 1)).2 := rfl

/-- `tx_sent()` (R256). -/
theorem txSent_eq (s : State) : txSent s =
    if txEmpty s.readByte then (s.regRead regStatus1 1).regWrite regPower [vPowerNoOsc] else s.regRead regStatus1 1 := rfl

/-! One SOP frame, from the bytes the chip returns. -/

/-- A bit of a byte in numbers. -/
theorem getLsbD_iff (b : Byte) (k : Nat) : b.getLsbD k = true ↔ b.toNat / 2 ^ k % 2 = 1 := by
  rw [BitVec.getLsbD, Nat.testBit_eq_decide_div_mod_eq, decide_eq_true_iff]

/-- The SOP token test in numbers (R124). -/
theorem isSopToken_iff (b : Byte) : isSopToken b = true ↔ b.toNat / 32 = 7 := by
  revert b
  decide

/-- The header's bytes as a number (R224). -/
theorem headerOf_toNat (low high : Byte) : (headerOf low high).toNat = low.toNat + 256 * high.toNat := by
  have hl := low.isLt
  have hh := high.isLt
  have e : (high.setWidth 16 <<< 8).toNat = 2 ^ 8 * high.toNat := by
    rw [BitVec.toNat_shiftLeft, BitVec.toNat_setWidth, Nat.shiftLeft_eq]
    omega
  rw [headerOf, BitVec.toNat_or, e, BitVec.toNat_setWidth, Nat.mod_eq_of_lt (by omega), Nat.or_comm,
    ← Nat.two_pow_add_eq_or_of_lt hl]
  omega

/-- The payload's length in numbers (R165). -/
theorem payloadLength_eq (h : Header) : payloadLength h = 4 * (h.toNat / 4096 % 8) := by
  rw [payloadLength, numDataObjs, BitVec.extractLsb'_toNat]
  simp [Nat.shiftRight_eq_div_pow]

/-- The GoodCRC test in numbers (R172). -/
theorem isGoodCrc_iff (h : Header) : isGoodCrc h = true ↔ h.toNat / 4096 % 8 = 0 ∧ h.toNat % 32 = 1 := by
  have hn : numDataObjs h = 0#3 ↔ h.toNat / 4096 % 8 = 0 := by
    rw [numDataObjs, BitVec.toNat_eq, BitVec.extractLsb'_toNat]
    simp [Nat.shiftRight_eq_div_pow]
  have ht : (typeBits h).toNat = h.toNat % 32 := by
    rw [typeBits, BitVec.extractLsb'_toNat]
    simp
  have hz : ∀ t : BitVec 5, (t.setWidth 8 == Config.mtGoodCrc.setWidth 8) = true ↔ t.toNat = 1 := by decide
  have ho : ∀ t : BitVec 5, (0x80#8 ||| t.setWidth 8 == Config.mtGoodCrc.setWidth 8) = false := by decide
  unfold isGoodCrc messageType
  by_cases hc : numDataObjs h = 0#3
  · rw [if_pos hc, hz, ht]
    simp [hn.1 hc]
  · rw [if_neg hc, ho]
    simp [mt hn.2 hc]

/-- The header of a frame. -/
def RxFrame.header (f : RxFrame) : Header := headerOf f.low f.high

theorem RxFrame.header_toNat (f : RxFrame) : f.header.toNat = f.headerNat := headerOf_toNat ..

theorem RxFrame.header_eq (f : RxFrame) : f.header = BitVec.ofNat 16 f.headerNat := by
  rw [← f.header_toNat, BitVec.ofNat_toNat, BitVec.setWidth_eq]

theorem RxFrame.payloadLength_header (f : RxFrame) : payloadLength f.header = 4 * f.objects := by
  rw [payloadLength_eq, f.header_toNat]
  rfl

/-- The verdict on a frame in terms of `accepted` (R226, R228). -/
theorem judgeFrame_accepted (f : RxFrame) (s : State) : judgeFrame f.header f.status0 s =
    if f.accepted then acceptFrame f.header s
    else s.noteNack (f.status0.toNat / 16 % 2 == 1) (.badCrc f.header) := by
  have hc := getLsbD_iff f.status0 4
  have hg := isGoodCrc_iff f.header
  rw [f.header_toNat] at hg
  unfold judgeFrame RxFrame.accepted crcChk RxFrame.objects
  by_cases h1 : f.status0.toNat / 16 % 2 = 1
  · rw [if_pos (hc.2 h1)]
    by_cases h2 : f.headerNat / 4096 % 8 = 0 ∧ f.headerNat % 32 = 1
    · rw [if_pos (hg.2 h2)]
      apply State.ext <;> simp [h1, h2.1, h2.2]
    · rw [if_neg (mt hg.1 h2), if_pos]
      simp only [h1, BEq.rfl, Bool.true_and, Bool.not_eq_true', Bool.and_eq_false_iff, beq_eq_false_iff_ne]
      omega
  · rw [if_neg (mt hc.1 h1), if_neg (by simp [h1])]
    apply State.ext <;> simp [h1]

/-- An SOP frame whose bytes are next in the chip: it is stored, then judged; the loop goes on (R222 to R228). -/
theorem deframe_sop {s : State} {f : RxFrame} (hf : f.sop = true)
    (hv : Input.values Config.freeChipByte (f.body.length + 4) s.chipIn = f.token :: f.low :: f.high :: f.body ++ [f.status0]) :
    (deframe s).1 = true ∧
    (deframe s).2 = judgeFrame f.header f.status0 (frameStored f.header (s.regRead regFifos 3)) ∧
    (s.regRead regFifos 3).readData (payloadLength f.header + 4) = f.body ∧
    payloadLength f.header + 4 = f.body.length := by
  simp only [RxFrame.sop, Bool.and_eq_true, beq_iff_eq] at hf
  have hp : payloadLength f.header + 4 = f.body.length := by rw [f.payloadLength_header, hf.2]
  have e : Input.values Config.freeChipByte (3 + (f.body.length + 1)) s.chipIn
      = [f.token, f.low, f.high] ++ (f.body ++ [f.status0]) := by
    rw [show 3 + (f.body.length + 1) = f.body.length + 4 by omega, hv]; simp
  rw [Input.values_add] at e
  obtain ⟨e1, e2⟩ := List.append_inj e (by simp)
  rw [Input.values_add] at e2
  obtain ⟨e3, e4⟩ := List.append_inj e2 (by simp)
  have h3 : s.readData 3 = [f.token, f.low, f.high] := e1
  have hs : isSopToken f.token = true := (isSopToken_iff _).2 hf.1.2
  have hd : (s.regRead regFifos 3).readData (payloadLength f.header + 4) = f.body := by
    simp only [State.readData, State.regRead_fields, hp]; exact e3
  have h4 : (Input.skip (payloadLength f.header + 4) (s.regRead regFifos 3).chipIn).value Config.freeChipByte
      = f.status0 := by
    simp only [hp, State.regRead_fields]
    simpa [Input.values] using e4
  refine ⟨?_, ?_, hd, hp⟩
  · simp only [deframe, h3]
    rw [if_pos (by simpa using hs)]
  · simp only [deframe, h3]
    rw [if_pos (by simpa using hs)]
    show receiveFrame f.header (s.regRead regFifos 3) = _
    rw [receiveFrame_eq, h4]

/-! The verdict, in every field it can move. -/

/-- Overflows are conditions, not transactions. -/
theorem doings_overflows (l : List Event) :
    doings (l.map fun e => Act.raise (.queueOverflow e)) = l.map fun e => Doing.raise (.queueOverflow e) := by
  induction l with
  | nil => rfl
  | cons a l ih => simp [ih]

theorem overflows_no_transaction (l : List Event) :
    (l.map fun e => Doing.raise (.queueOverflow e)).filter Doing.isTransaction = [] := by
  induction l with
  | nil => rfl
  | cons a l ih => rw [List.map_cons, List.filter_cons_of_neg (by exact Bool.false_ne_true), ih]

theorem overflows_conditions (l : List Event) :
    (l.map fun e => Doing.raise (.queueOverflow e)).filter Doing.isCondition = l.map fun e => Doing.raise (.queueOverflow e) := by
  induction l with
  | nil => rfl
  | cons a l ih => rw [List.map_cons, List.filter_cons_of_pos (by rfl), ih]

/-- The verdict on a stored frame moves the attach state, the timer, the queue and the index, and records what was dropped
(R226 to R232). -/
theorem judgeFrame_effect (f : RxFrame) (s : State) (hq : s.evq.length ≤ 6) :
    (judgeFrame f.header f.status0 s).attach = (if f.accepted then .usbPd else s.attach) ∧
    (judgeFrame f.header f.status0 s).timerActive
      = (if f.accepted ∧ s.attach ≠ .usbPd then false else s.timerActive) ∧
    (judgeFrame f.header f.status0 s).rxIdx = (if f.accepted then s.rxIdx + 1#2 else s.rxIdx) ∧
    (judgeFrame f.header f.status0 s).rxRing = s.rxRing ∧ (judgeFrame f.header f.status0 s).slotGen = s.slotGen ∧
    (judgeFrame f.header f.status0 s).chipIn = s.chipIn ∧ (judgeFrame f.header f.status0 s).chipRegs = s.chipRegs ∧
    (judgeFrame f.header f.status0 s).evq
      = s.evq ++ (if f.accepted then acceptedEvents f.header s else []).take (6 - s.evq.length) ∧
    transactions (judgeFrame f.header f.status0 s).trace = transactions s.trace ∧
    conditions (judgeFrame f.header f.status0 s).trace = conditions s.trace ++
      (if f.accepted then
          ((acceptedEvents f.header s).drop (6 - s.evq.length)).map fun e => Doing.raise (.queueOverflow e)
        else if f.status0.toNat / 16 % 2 = 1 then [] else [.raise (.badCrc f.header)]) := by
  rw [judgeFrame_accepted]
  by_cases h : f.accepted = true
  · rw [if_pos h]
    obtain ⟨q1, q2⟩ := acceptFrame_queue f.header s hq
    refine ⟨by simp [h], ?_, by simp [h], by simp, by simp, by simp, by simp, by rw [q1, if_pos h], ?_, ?_⟩
    · simp [h]
    · rw [q2, transactions, doings_append, List.filter_append, doings_overflows, overflows_no_transaction,
        List.append_nil]
      rfl
    · rw [q2, conditions, doings_append, List.filter_append, doings_overflows, overflows_conditions, if_pos h]
      rfl
  · rw [if_neg h]
    have hf : f.accepted = false := by simpa using h
    simp only [hf]
    refine ⟨by simp, by simp, by simp, by simp, by simp, by simp, by simp, by simp, ?_, ?_⟩
    · simp only [transactions, State.noteNack_fields, doings_append]
      split <;> simp <;> rfl
    · simp only [conditions, State.noteNack_fields, doings_append]
      by_cases h1 : f.status0.toNat / 16 % 2 = 1 <;> simp [h1]
      rfl

/-- What the start of an interrupt pass does (R220, R221, R256). -/
theorem passed_doings (s : State) : doings (passed s).trace = doings s.trace
    ++ [.read regInterrupt 1, .read regInterrupta 1, .read regInterruptb 1]
    ++ (if iRetryFail (s.regRead regInterrupt 1).readByte then [.raise .retryFail] else [])
    ++ (if iTxSent (s.regRead regInterrupt 1).readByte then
          .read regStatus1 1 :: (if txEmpty ((Input.skip 3 s.chipIn).value Config.freeChipByte) then
            [.write regPower [vPowerNoOsc]] else [])
        else []) := by
  unfold passed
  simp only [handleTxSent_fields, noteRetryFail_fields, doings_append, State.regRead_doings, State.readByte,
    State.regRead_fields, Input.skip_skip]
  by_cases h : iRetryFail ((Input.skip 1 s.chipIn).value Config.freeChipByte) = true <;> simp [h]

/-- The chip bytes it consumes. -/
theorem passed_chipIn (s : State) : (passed s).chipIn
    = Input.skip (3 + (if iTxSent (s.regRead regInterrupt 1).readByte then 1 else 0)) s.chipIn := by
  unfold passed
  simp only [handleTxSent_fields, noteRetryFail_fields, State.regRead_fields, Input.skip_skip]
  split <;> rfl

end Sys2Proof.Machine
end

