-- ==== Sys2Proof/Laws/Exec.lean ====
section
/-! SUPPORT. Every meaning as one shape: a body that reaches a state or is stuck, then the end of a step. -/

namespace Sys2Proof.Machine

/-- What an answer without traffic reaches. -/
def answered (status : BitVec 2) (value : Word) (s : State) : Except Fault State := .ok (s.begin.respond status value)

/-- What a lone TX token reaches (log 6, log 9). -/
def tokenBody (b : Byte) (s : State) : Except Fault State :=
  if s.txPos < Config.txBufBytes then .ok (s.begin.emitByte b) else .error .txBufferEnd

/-- What an instruction reaches before the clock is asked (R341). -/
def body (i : Instr) (s : State) : Except Fault State :=
  match i with
  | .init => .ok ((initBody s.begin).respond 0#2 0#32)
  | .startSink => .ok ((startSinkBody s.begin).respond 0#2 0#32)
  | .poll => respondOk (pollBody s.begin)
  | .sendMessage header => .ok ((sendMessageBody header (payloadOperand header s.payloadPort) s.begin).respond 0#2 0#32)
  | .sendHeaderMessage type rev =>
    if revLegal rev then .ok ((sendMessageBody (createCtrl type rev) [] s.begin).respond 0#2 0#32)
    else answered 2#2 0#32 s
  | .hasEvent => answered 0#2 (if 0 < s.evq.length then 1#32 else 0#32) s
  | .popEvent =>
    match s.evq with
    | [] => answered 0#2 0#32 s
    | e :: rest => answered 0#2 (eventValue e) (s.popped e rest)
  | .getState => answered 0#2 (zext32 (attachCode s.attach)) s
  | .getDeviceId => .ok ((s.begin.regRead1 regDeviceId).respond 0#2 (zext32 s.begin.readByte))
  | .readRxByte slot offset => answered 0#2 (zext32 (s.ringByte slot offset.toNat)) s
  | .eventCount => answered 0#2 (BitVec.ofNat 32 s.evq.length) s
  | .createCtrl type rev => if revLegal rev then answered 0#2 (zext32 (createCtrl type rev)) s else answered 2#2 0#32 s
  | .createData type n rev =>
    if revLegal rev && numObjsLegal n then answered 0#2 (zext32 (createData type n rev)) s else answered 2#2 0#32 s
  | .hdrMessageType header => answered 0#2 (zext32 (messageType header)) s
  | .hdrNumDataObjs header => answered 0#2 (zext32 (numDataObjs header)) s
  | .hdrSpecRev header => answered 0#2 (zext32 (specRev header)) s
  | .hdrMessageId header => answered 0#2 (zext32 (messageId header)) s
  | .hdrExtended header => answered 0#2 (zext32 (extended header)) s
  | .hdrDataRole header => answered 0#2 (zext32 (dataRole header)) s
  | .hdrPowerRole header => answered 0#2 (zext32 (powerRole header)) s
  | .tokSop1 => tokenBody tokSop1Byte s
  | .tokSop2 => tokenBody tokSop2Byte s
  | .tokPacksym len => tokenBody (packsymByte len) s
  | .tokJamCrc => tokenBody tokJamCrcByte s
  | .tokEop => tokenBody tokEopByte s
  | .tokTxoff => tokenBody tokTxoffByte s
  | .tokTxon => tokenBody tokTxonByte s
  | .rxTokenSop low => .ok (deframe (s.begin.presentToken (0b111#3 ++ low))).2

/-- Every meaning is its body and the end of a step. -/
theorem exec_eq (i : Instr) (s : State) : exec i s = completeOr s (body i s) := by
  have token : ∀ b, emitToken b s = completeOr s (tokenBody b s) := fun b => by
    unfold emitToken tokenBody
    split <;> rfl
  cases i with
  | sendHeaderMessage type rev =>
    simp only [exec, execSendHeaderMessage, body]
    split <;> rfl
  | createCtrl type rev =>
    simp only [exec, execCreateCtrl, body]
    split <;> rfl
  | createData type n rev =>
    simp only [exec, execCreateData, body]
    split <;> rfl
  | popEvent =>
    simp only [exec, execPopEvent, body]
    cases s.evq <;> rfl
  | tokSop1 | tokSop2 | tokJamCrc | tokEop | tokTxoff | tokTxon => exact token _
  | tokPacksym len => exact token _
  | _ => rfl

/-- A step that completes reached a state; the clock took nothing from it but the count of bytes to the hold. -/
theorem exec_next {i : Instr} {s t : State} (h : exec i s = .next t) :
    ∃ u, body i s = .ok u ∧ t = { u with sclHold := t.sclHold } := by
  rw [exec_eq] at h
  cases hb : body i s with
  | error f => rw [hb] at h; cases h
  | ok u => rw [hb] at h; exact ⟨u, rfl, (complete_next h).1⟩

/-- With no clock hold to come an instruction ends in the state its body reaches. -/
theorem exec_of_body {i : Instr} {s u : State} (h : body i s = .ok u) (hs : s.sclHold = none) : exec i s = .next u := by
  rw [exec_eq, h]
  exact complete_of_no_hold u hs

/-! What POLL's body can reach. -/

/-- The states POLL reaches: nothing to act on, a move of the timer branch, a hard reset, a pass, a drain (R201, R220). -/
inductive PollEnd (s : State) : State → Prop where
  | idleUsb20 (h : s.attach = .usb20) : PollEnd s s.afterTimerCheck
  | flip (c : Cc) (h : s.attach = .usb20) (hm : s.measCc = some c) (he : Expired s) :
      PollEnd s (startMeasurement c.other (s.sampleMillis.regRead1 regStatus0))
  | pdWait (c : Cc) (h : s.attach = .usb20) (hm : s.measCc = some c) (he : Expired s) :
      PollEnd s (enterPdWait c (s.sampleMillis.regRead1 regStatus0))
  | idle (h : s.attach ≠ .usb20) : PollEnd s s.sampleIntN.afterTimerCheck
  | timeout (h : s.attach = .usbPdWait) (he : Expired s) :
      PollEnd s (enterRetryWait (s.sampleIntN.sampleMillis.raise .protocolTimeout))
  | retry (h : s.attach = .usbRetryWait) (he : Expired s) : PollEnd s (startSinkBody s.sampleIntN.sampleMillis)
  | hardReset (h : s.attach ≠ .usb20) : PollEnd s (enterRetryWait (passedHardReset s.sampleIntN))
  | pass (h : s.attach ≠ .usb20) : PollEnd s (passed s.sampleIntN)
  | drained (h : s.attach ≠ .usb20) {k : Nat} {u : State} (hd : drain k (passed s.sampleIntN) = .ok u) : PollEnd s u

/-- POLL's body ends in one of them. -/
theorem pollBody_ends {s u : State} (h : pollBody s = .ok u) : PollEnd s u := by
  have hI : Expired s.sampleIntN → Expired s := fun e =>
    e.congr (by simp) (by simp) (State.millisNow_congr (by simp) (by simp))
  by_cases ha : s.attach = .usb20
  · rw [pollBody_usb20 ha] at h
    by_cases he : Expired s
    · rw [pollTimer_expired he, onExpiry] at h
      simp only [State.sampleMillis_fields, ha, checkMeasurement] at h
      cases hm : s.measCc with
      | none => rw [hm] at h; cases h
      | some c =>
        simp only [hm] at h
        split at h
        · cases h; exact .flip c ha hm he
        · cases h; exact .pdWait c ha hm he
    · rw [pollTimer_not_expired he] at h
      cases h; exact .idleUsb20 ha
  · cases hi : s.intNLow with
    | false =>
      rw [pollBody_timer ha hi] at h
      by_cases he : Expired s.sampleIntN
      · rw [pollTimer_expired he, onExpiry] at h
        simp only [State.sampleMillis_fields, State.sampleIntN_fields] at h
        cases hs : s.attach with
        | usb20 => exact absurd hs ha
        | usbPdWait => simp only [hs] at h; cases h; exact .timeout hs (hI he)
        | usbPd =>
          simp only [hs] at h; cases h
          rw [← State.afterTimerCheck_active he.1]; exact .idle ha
        | usbRetryWait => simp only [hs] at h; cases h; exact .retry hs (hI he)
      · rw [pollTimer_not_expired he] at h
        cases h; exact .idle ha
    | true =>
      rw [pollBody_interrupt ha hi, handleInterrupts_eq] at h
      split at h
      · cases h; exact .hardReset ha
      · split at h
        · exact .drained ha h
        · cases h; exact .pass ha

/-- What POLL's body reaches, for its response. -/
theorem body_poll {s u : State} (h : body .poll s = .ok u) :
    ∃ v, PollEnd s.begin v ∧ u = v.respond 0#2 0#32 := by
  unfold body at h
  cases hb : pollBody s.begin with
  | error f => rw [hb] at h; cases h
  | ok v => rw [hb] at h; cases h; exact ⟨v, pollBody_ends hb, rfl⟩

/-! The framer. -/

/-- Building a stream changes `tx_buf` and the place in it only (R252). -/
@[simp] theorem State.emitBytes_fields (s : State) (bs : List Byte) :
    (s.emitBytes bs).attach = s.attach ∧ (s.emitBytes bs).measCc = s.measCc ∧
    (s.emitBytes bs).timerActive = s.timerActive ∧ (s.emitBytes bs).timerExp = s.timerExp ∧
    (s.emitBytes bs).nextMessageId = s.nextMessageId ∧ (s.emitBytes bs).intNMode = s.intNMode ∧
    (s.emitBytes bs).rxIdx = s.rxIdx ∧ (s.emitBytes bs).rxRing = s.rxRing ∧
    (s.emitBytes bs).txBuf = s.txBuf.writeList s.txPos bs ∧ (s.emitBytes bs).evq = s.evq ∧
    (s.emitBytes bs).resp = s.resp ∧ (s.emitBytes bs).trace = s.trace ∧ (s.emitBytes bs).wire = s.wire ∧
    (s.emitBytes bs).lines = s.lines ∧ (s.emitBytes bs).txPos = s.txPos + bs.length ∧
    (s.emitBytes bs).chipRegs = s.chipRegs ∧ (s.emitBytes bs).slotGen = s.slotGen ∧
    (s.emitBytes bs).held = s.held ∧ (s.emitBytes bs).lastMillis = s.lastMillis ∧
    (s.emitBytes bs).inbox = s.inbox ∧ (s.emitBytes bs).payloadPort = s.payloadPort ∧
    (s.emitBytes bs).chipIn = s.chipIn ∧ (s.emitBytes bs).millisIn = s.millisIn ∧
    (s.emitBytes bs).intNIn = s.intNIn ∧ (s.emitBytes bs).ackIn = s.ackIn ∧
    (s.emitBytes bs).sclHold = s.sclHold := by
  induction bs generalizing s with
  | nil => simp [State.emitBytes, Memory.writeList]
  | cons b bs ih => simp [State.emitBytes, ih, Memory.writeList, Nat.add_assoc, Nat.add_comm 1]

/-- The bytes just written are the bytes read back (R252). -/
theorem State.txBytes_writeList {t : State} {m : Memory} {a : Nat} (bs : List Byte) (h : t.txBuf = m.writeList a bs) :
    t.txBytes a bs.length = bs := by
  have key : ∀ (tail : List Byte) (k : Nat), k + tail.length = bs.length → (∀ j, j < tail.length → bs[k + j]? = tail[j]?) →
      t.txBytes (a + k) tail.length = tail := by
    intro tail
    induction tail with
    | nil => intros; rfl
    | cons x xs ih =>
      intro k hk hj
      rw [List.length_cons, State.txBytes, Nat.add_assoc]
      congr 1
      · have h0 := hj 0 (by simp)
        rw [State.txByte, h, Memory.read_writeList, if_pos (by simp at hk; omega), Nat.add_sub_cancel_left]
        simp only [Nat.add_zero, List.getElem?_cons_zero] at h0
        simp [h0]
      · refine ih (k + 1) (by simp at hk; omega) fun j hj' => ?_
        have := hj (j + 1) (by simp; omega)
        rw [show k + 1 + j = k + (j + 1) by omega, this, List.getElem?_cons_succ]
  exact key bs 0 (by simp) (by simp)

/-- What SEND_MESSAGE leaves (R250 to R254). `stream` is the token stream, of `11 + 4n` bytes. -/
theorem sendMessageBody_fields (header : Header) (payload : List Byte) (s : State)
    (hp : payload.length = payloadLength header) :
    (sendMessageBody header payload s).attach = s.attach ∧ (sendMessageBody header payload s).measCc = s.measCc ∧
    (sendMessageBody header payload s).timerActive = s.timerActive ∧
    (sendMessageBody header payload s).timerExp = s.timerExp ∧
    (sendMessageBody header payload s).nextMessageId = s.nextMessageId + 1#3 ∧
    (sendMessageBody header payload s).intNMode = s.intNMode ∧ (sendMessageBody header payload s).rxIdx = s.rxIdx ∧
    (sendMessageBody header payload s).rxRing = s.rxRing ∧
    (sendMessageBody header payload s).txBuf = s.txBuf.writeList 0 (txStream (stampId header s.nextMessageId) payload) ∧
    (sendMessageBody header payload s).evq = s.evq ∧ (sendMessageBody header payload s).resp = s.resp ∧
    doings (sendMessageBody header payload s).trace = doings s.trace ++ [.write regPower [vPowerAll],
      .write regFifos (txStream (stampId header s.nextMessageId) payload)] ∧
    (sendMessageBody header payload s).lines = Lines.idle ∧
    (sendMessageBody header payload s).txPos = 11 + payloadLength header ∧
    (sendMessageBody header payload s).slotGen = s.slotGen ∧ (sendMessageBody header payload s).held = s.held ∧
    (sendMessageBody header payload s).lastMillis = s.lastMillis ∧
    (sendMessageBody header payload s).inbox = s.inbox ∧
    (sendMessageBody header payload s).payloadPort = s.payloadPort ∧
    (sendMessageBody header payload s).chipIn = s.chipIn ∧ (sendMessageBody header payload s).millisIn = s.millisIn ∧
    (sendMessageBody header payload s).intNIn = s.intNIn ∧ (sendMessageBody header payload s).sclHold = s.sclHold := by
  have hl : (txStream (stampId header s.nextMessageId) payload).length = 11 + payloadLength header := by
    simp [txStream, hp]; omega
  have hb := State.txBytes_writeList (t := (s.regWrite regPower [vPowerAll]).startStream.emitBytes
    (txStream (stampId header s.nextMessageId) payload)) (m := s.txBuf) (a := 0)
    (txStream (stampId header s.nextMessageId) payload) (by simp)
  rw [hl] at hb
  simp [sendMessageBody, hb, hl]

/-- A burst into the TX FIFO leaves no register value (R66, log 13). -/
theorem State.regWrite_fifos (s : State) (v : List Byte) : (s.regWrite regFifos v).chipRegs = s.chipRegs := by
  simp only [State.regWrite_fields, noteWrite]
  split
  · rfl
  · rw [if_neg (by decide), if_pos trivial]

/-- The chip after SEND_MESSAGE: only POWER was written (R250). -/
theorem sendMessageBody_chipRegs (header : Header) (payload : List Byte) (s : State) :
    (sendMessageBody header payload s).chipRegs = (s.regWrite regPower [vPowerAll]).chipRegs := by
  simp only [sendMessageBody, State.regWrite_fifos, State.regWrite1_eq, State.emitBytes_fields, State.startStream_fields]

/-- The payload operand has the length the header says (R105). -/
theorem payloadOperand_length (h : Header) (port : Vector Byte 28) : (payloadOperand h port).length = payloadLength h := by
  have := payloadLength_le h
  simp [payloadOperand]
  omega

/-- A control message has no payload (R161). -/
theorem createCtrl_payloadLength (type : BitVec 5) (rev : BitVec 2) : payloadLength (createCtrl type rev) = 0 := by
  revert type rev
  decide

/-- What POLL never touches outside its response: the framer's fields and the clock hold. -/
theorem PollEnd.framer {s u : State} (h : PollEnd s u) :
    u.txBuf = s.txBuf ∧ u.txPos = s.txPos ∧ u.sclHold = s.sclHold := by
  cases h with
  | drained h hd => have := drain_fields hd; simp [this]
  | _ => simp [startSinkBody, passedHardReset]

/-! The stream in numbers. -/

/-- The stamped header as a number (R164). -/
theorem stampId_toNat (h : Header) (id : BitVec 3) : (stampId h id).toNat = h.toNat ||| id.toNat * 512 := by
  rw [stampId, BitVec.toNat_or]
  congr 1
  revert id
  decide

/-- Stamping leaves the payload length alone (R164). -/
theorem payloadLength_stampId (h : Header) (id : BitVec 3) : payloadLength (stampId h id) = payloadLength h := by
  have hz : ∀ id : BitVec 3, BitVec.extractLsb' 12 3 (id.setWidth 16 <<< 9) = 0#3 := by decide
  have : numDataObjs (stampId h id) = numDataObjs h := by
    unfold numDataObjs stampId
    rw [BitVec.extractLsb'_or, hz]
    simp
  rw [payloadLength, this]
  rfl

/-- The PACKSYM byte in numbers (R121). -/
theorem packsymFor_eq (h : Header) : packsymFor h = BitVec.ofNat 8 (128 + (4 * (h.toNat / 4096 % 8) + 2)) := by
  have key : ∀ n : Fin 8, tokPacksymBase ||| BitVec.ofNat 8 (4 * n.val + 2) = BitVec.ofNat 8 (128 + (4 * n.val + 2)) := by
    decide
  rw [packsymFor, payloadLength_eq]
  exact key ⟨h.toNat / 4096 % 8, by omega⟩

/-- The header's bytes in numbers (R69). -/
theorem headerLow_eq (h : Header) : headerLow h = BitVec.ofNat 8 (h.toNat % 256) := by
  apply BitVec.eq_of_toNat_eq
  rw [headerLow, BitVec.extractLsb'_toNat]
  simp

theorem headerHigh_eq (h : Header) : headerHigh h = BitVec.ofNat 8 (h.toNat / 256) := by
  apply BitVec.eq_of_toNat_eq
  rw [headerHigh, BitVec.extractLsb'_toNat]
  simp [Nat.shiftRight_eq_div_pow]

end Sys2Proof.Machine
end

