-- ==== Sys2Proof/Laws/Step.lean ====
section
/-! SUPPORT. What a step that ends can have been: nothing presented, an instruction, an illegal command, a frame that begins
with a non-SOP token. -/

namespace Sys2Proof.Machine

/-- Taking a request moves the inbox and, for a command, the payload port (R105). -/
@[simp] theorem State.take_fields (s : State) (r : Request) (rest : List Request) :
    (s.take r rest).attach = s.attach ∧ (s.take r rest).measCc = s.measCc ∧
    (s.take r rest).timerActive = s.timerActive ∧ (s.take r rest).timerExp = s.timerExp ∧
    (s.take r rest).nextMessageId = s.nextMessageId ∧ (s.take r rest).intNMode = s.intNMode ∧
    (s.take r rest).rxIdx = s.rxIdx ∧ (s.take r rest).rxRing = s.rxRing ∧ (s.take r rest).txBuf = s.txBuf ∧
    (s.take r rest).evq = s.evq ∧ (s.take r rest).resp = s.resp ∧ (s.take r rest).trace = s.trace ∧
    (s.take r rest).wire = s.wire ∧ (s.take r rest).lines = s.lines ∧ (s.take r rest).txPos = s.txPos ∧
    (s.take r rest).chipRegs = s.chipRegs ∧ (s.take r rest).slotGen = s.slotGen ∧
    (s.take r rest).held = s.held ∧ (s.take r rest).lastMillis = s.lastMillis ∧ (s.take r rest).inbox = rest ∧
    (s.take r rest).chipIn = s.chipIn ∧ (s.take r rest).millisIn = s.millisIn ∧
    (s.take r rest).intNIn = s.intNIn ∧ (s.take r rest).ackIn = s.ackIn ∧ (s.take r rest).sclHold = s.sclHold := by
  cases r <;> simp [State.take]

/-- Only a command word decodes to a command, and only a reserved one is illegal (R108). -/
theorem onDecodeError_cases {r : Request} {e : DecodeError} (h : decode r.fetch = .error e) :
    (∃ w payload, r = .command w payload ∧ ∀ s, onDecodeError e s = illegalCommand s) ∨
    (∃ b, r = .rxToken b ∧ ∀ s, onDecodeError e s = nonSopFrame b s) ∨
    ∃ b, r = .txToken b ∧ ∀ s, onDecodeError e s = .refused (.notATxToken b) := by
  have reserved : ∀ c w i, ifReservedZero c w i = .error e → e = .reservedBits w := by
    intro c w i h
    unfold ifReservedZero at h
    split at h
    · cases h
    · cases h; rfl
  cases r with
  | command w payload =>
    refine .inl ⟨w, payload, rfl, fun s => ?_⟩
    simp only [Request.fetch, decode, decodeCommand] at h
    split at h <;> first
      | (cases h; rfl)
      | (rw [reserved _ _ _ h]; rfl)
  | txToken b =>
    refine .inr (.inr ⟨b, rfl, fun s => ?_⟩)
    simp only [Request.fetch, decode, decodeTxToken] at h
    repeat (split at h; · cases h)
    cases h; rfl
  | rxToken b =>
    refine .inr (.inl ⟨b, rfl, fun s => ?_⟩)
    simp only [Request.fetch, decode, decodeRxToken] at h
    split at h
    · cases h
    · cases h; rfl

/-- What a step that ends was. -/
theorem step_next {s t : State} (h : step s = .next t) :
    (s.inbox = [] ∧ t = s) ∨ ∃ r rest, s.inbox = r :: rest ∧
      ((∃ i, decode r.fetch = .ok i ∧ exec i (s.take r rest) = .next t) ∨
       (∃ w payload, r = .command w payload ∧
          t = { s.take r rest with trace := [], wire := [], resp := some ⟨1#2, 0#32⟩ }) ∨
       ∃ b, r = .rxToken b ∧
          t = { (deframe ((s.take r rest).begin.presentToken b)).2 with sclHold := t.sclHold }) := by
  unfold step at h
  cases hi : s.inbox with
  | nil => rw [hi] at h; cases h; exact .inl ⟨rfl, rfl⟩
  | cons r rest =>
    rw [hi] at h
    refine .inr ⟨r, rest, rfl, ?_⟩
    simp only at h
    cases hd : decode r.fetch with
    | ok i => rw [hd] at h; exact .inl ⟨i, rfl, h⟩
    | error e =>
      rw [hd] at h
      simp only at h
      rcases onDecodeError_cases hd with ⟨w, p, hr, he⟩ | ⟨b, hr, he⟩ | ⟨b, hr, he⟩
      · rw [he, illegalCommand_eq] at h; cases h
        exact .inr (.inl ⟨w, p, hr, rfl⟩)
      · rw [he, nonSopFrame] at h
        exact .inr (.inr ⟨b, hr, (complete_next h).1⟩)
      · rw [he] at h; cases h

/-- An invariant of steps, said of bodies: it looks at no field a step's wrapping touches, and bodies keep it. -/
theorem step_keeps {P : State → Prop}
    (congr : ∀ (s : State) (r : Request) (rest : List Request), P s → P (s.take r rest))
    (outputs : ∀ (s : State) (hold : Option Nat) (tr : List Act) (w : List BusSym) (re : Option Response), P s →
      P { s with trace := tr, wire := w, resp := re, sclHold := hold })
    (bodies : ∀ (i : Instr) (s u : State), body i s = .ok u → P s → P u)
    (frames : ∀ (b : Byte) (s : State), P s → P (deframe (s.begin.presentToken b)).2)
    {s t : State} (h : step s = .next t) (hs : P s) : P t := by
  rcases step_next h with ⟨_, rfl⟩ | ⟨r, rest, _, ⟨i, _, he⟩ | ⟨w, p, _, rfl⟩ | ⟨b, _, he⟩⟩
  · exact hs
  · obtain ⟨u, hu, he'⟩ := exec_next he
    rw [he']
    have := bodies i _ u hu (congr s r rest hs)
    exact outputs u t.sclHold u.trace u.wire u.resp this
  · exact outputs _ _ [] [] _ (congr s r rest hs)
  · rw [he]
    exact outputs _ t.sclHold _ _ _ (frames b _ (congr s r rest hs))

end Sys2Proof.Machine
end

