-- ==== Sys2Proof/Laws/BusErrors.lean ====
section
/-! SUPPORT. Every operation leaves a trace in which TransientBusError stands right after each transaction that was not
acknowledged whole, and nowhere else (R330, R362). -/

namespace Sys2Proof.Machine

theorem BusErrorsRecorded.nil : BusErrorsRecorded [] := rfl

theorem BusErrorsRecorded.append {xs ys : List Act} (hx : BusErrorsRecorded xs) (hy : BusErrorsRecorded ys) :
    BusErrorsRecorded (xs ++ ys) := by
  unfold BusErrorsRecorded at *
  rw [List.filter_append, List.flatMap_append, ← hx, ← hy]

/-- An entry that is neither a transaction nor a bus error. -/
theorem BusErrorsRecorded.plain {a : Act} (h : a.isBusError = false) (h' : a.busError = []) : BusErrorsRecorded [a] := by
  simp [BusErrorsRecorded, h, h']

/-- The trace of a state records its bus errors. -/
abbrev State.Honest (s : State) : Prop := BusErrorsRecorded s.trace

theorem State.Honest.congr {s t : State} (h : s.Honest) (e : t.trace = s.trace) : t.Honest := by
  unfold State.Honest
  rw [e]
  exact h

theorem State.Honest.regWrite {s : State} (h : s.Honest) (reg : Byte) (v : List Byte) : (s.regWrite reg v).Honest := by
  have : (s.regWrite reg v).trace = s.trace ++
      (.write reg v (sendBytes (addrWrite :: reg :: v) s.ackIn).acked ::
        (Act.write reg v (sendBytes (addrWrite :: reg :: v) s.ackIn).acked).busError) := by
    by_cases e : (sendBytes (addrWrite :: reg :: v) s.ackIn).acked = v.length + 2 <;>
      simp [State.regWrite, State.regWriteEnding, State.noteNack, State.record, State.onWire, Act.busError, e]
  unfold State.Honest
  rw [this]
  refine h.append ?_
  by_cases e : (sendBytes (addrWrite :: reg :: v) s.ackIn).acked = v.length + 2 <;>
    simp [BusErrorsRecorded, Act.busError, Act.isBusError, e]

theorem State.Honest.regRead {s : State} (h : s.Honest) (reg : Byte) (n : Nat) : (s.regRead reg n).Honest := by
  have : (s.regRead reg n).trace = s.trace ++
      (.read reg (s.readData n) (sendRead reg s.ackIn).acked ::
        (Act.read reg (s.readData n) (sendRead reg s.ackIn).acked).busError) := by
    by_cases e : (sendRead reg s.ackIn).acked = 3 <;>
      simp [State.regRead, State.noteNack, State.record, State.onWire, Act.busError, e]
  unfold State.Honest
  rw [this]
  refine h.append ?_
  by_cases e : (sendRead reg s.ackIn).acked = 3 <;>
    simp [BusErrorsRecorded, Act.busError, Act.isBusError, e]

theorem State.Honest.record {s : State} (h : s.Honest) {a : Act} (ha : a.isBusError = false) (ha' : a.busError = []) :
    (s.record a).Honest := h.append (.plain ha ha')

theorem State.Honest.sampleMillis {s : State} (h : s.Honest) : s.sampleMillis.Honest :=
  State.Honest.record (s := s.tick) h rfl rfl

theorem State.Honest.afterTimerCheck {s : State} (h : s.Honest) : s.afterTimerCheck.Honest := by
  unfold State.afterTimerCheck
  split
  · exact h.sampleMillis
  · exact h

theorem State.Honest.sampleIntN {s : State} (h : s.Honest) : s.sampleIntN.Honest := h.append (.plain rfl rfl)

theorem State.Honest.delay {s : State} (h : s.Honest) (ms : Word) : (s.delay ms).Honest := h.append (.plain rfl rfl)

theorem State.Honest.timerStart {s : State} (h : s.Honest) (ms : Word) : (s.timerStart ms).Honest := h.sampleMillis

theorem State.Honest.push {s : State} (h : s.Honest) (e : Event) : (s.push e).Honest := by
  unfold State.push
  split
  · exact h.append (.plain rfl rfl)
  · exact h

theorem State.Honest.respond {s : State} (h : s.Honest) (status : BitVec 2) (value : Word) :
    (s.respond status value).Honest := h.congr rfl

theorem chipBringup_honest {s : State} (h : s.Honest) : (chipBringup s).Honest :=
  ((((((h.regWrite regReset [vResetAll]).delay Config.resetDelayMs).regWrite regPower [vPowerNoOsc]).regWrite
    regMask [vMaskAll]).regWrite regMaska [vMaskaAll]).regWrite regMaskb [vMaskbAll])

theorem initBody_honest {s : State} (h : s.Honest) : (initBody s).Honest := chipBringup_honest h

theorem startMeasurement_honest {s : State} (h : s.Honest) (c : Cc) : (startMeasurement c s).Honest :=
  (h.regWrite regSwitches0 [vSw0Meas c]).timerStart Config.measTimeoutMs

theorem startSinkBody_honest {s : State} (h : s.Honest) : (startSinkBody s).Honest :=
  startMeasurement_honest (s := { s with attach := .usb20 }) h .cc1

theorem pdWaitWrites_honest {s : State} (h : s.Honest) (c : Cc) : (pdWaitWrites c s).Honest :=
  (((((h.regWrite regControl3 [vCtrl3Pd]).regWrite regMask [vMaskPd]).regWrite regMaska [vMaskaPd]).regWrite
    regMaskb [vMaskbPd]).regWrite regSwitches1 [vSw1Pd c]).regWrite regControl0 [vCtrl0Pd]

theorem enterPdWait_honest {s : State} (h : s.Honest) (c : Cc) : (enterPdWait c s).Honest := by
  have h0 : s.initIntN.Honest := h.append (.plain rfl rfl)
  have h1 : ({ pdWaitWrites c s.initIntN with measCc := none, attach := .usbPdWait } : State).Honest :=
    pdWaitWrites_honest h0 c
  exact h1.timerStart Config.pdWaitTimeoutMs

theorem enterRetryWait_honest {s : State} (h : s.Honest) : (enterRetryWait s).Honest := by
  have h1 : ({ initBody s with attach := .usbRetryWait } : State).Honest := (initBody_honest h).congr rfl
  exact (h1.timerStart Config.retryWaitMs).push .stateChanged

theorem enterUsbPd_honest {s : State} (h : s.Honest) : (enterUsbPd s).Honest := by
  unfold enterUsbPd
  split
  · exact h
  · exact State.Honest.push (s := ({ s with attach := .usbPd }).timerCancel) h _

theorem judgeFrame_honest {s : State} (h : s.Honest) (header : Header) (status0 : Byte) :
    (judgeFrame header status0 s).Honest := by
  unfold judgeFrame
  split
  · split
    · exact h
    · exact (enterUsbPd_honest h).push _
  · exact h.append (.plain rfl rfl)

theorem receiveFrame_honest {s : State} (h : s.Honest) (header : Header) : (receiveFrame header s).Honest := by
  have h1 : ((s.regRead regFifos (payloadLength header + 4)).storeFrame
      (s.readData (payloadLength header + 4))).Honest := h.regRead regFifos (payloadLength header + 4)
  exact judgeFrame_honest (h1.regRead regStatus0 1) _ _

theorem deframe_honest {s : State} (h : s.Honest) : (deframe s).2.Honest := by
  have h1 := h.regRead regFifos 3
  unfold deframe
  dsimp only
  split
  · exact receiveFrame_honest h1 _
  · have h2 : ((s.regRead regFifos 3).raise (.notSop ((s.readData 3).getD 0 0#8))).Honest := h1.append (.plain rfl rfl)
    exact h2.regWrite regControl1 [vCtrl1RxFlush]

theorem txSent_honest {s : State} (h : s.Honest) : (txSent s).Honest := by
  unfold txSent
  dsimp only
  split
  · exact (h.regRead regStatus1 1).regWrite regPower [vPowerNoOsc]
  · exact h.regRead regStatus1 1

theorem threeReads_honest {s : State} (h : s.Honest) :
    (((s.regRead regInterrupt 1).regRead regInterrupta 1).regRead regInterruptb 1).Honest :=
  ((h.regRead _ _).regRead _ _).regRead _ _

theorem passed_honest {s : State} (h : s.Honest) : (passed s).Honest := by
  have h0 : (noteRetryFail (s.regRead regInterrupt 1).readByte
      (((s.regRead regInterrupt 1).regRead regInterrupta 1).regRead regInterruptb 1)).Honest := by
    unfold noteRetryFail
    split
    · exact (threeReads_honest h).append (.plain rfl rfl)
    · exact threeReads_honest h
  unfold passed handleTxSent
  split
  · exact txSent_honest h0
  · exact h0

theorem emitBytes_honest {s : State} (h : s.Honest) (bs : List Byte) : (s.emitBytes bs).Honest := by
  induction bs generalizing s with
  | nil => exact h
  | cons b bs ih => exact ih (s := s.emitByte b) h

theorem sendMessageBody_honest {s : State} (h : s.Honest) (header : Header) (payload : List Byte) :
    (sendMessageBody header payload s).Honest := by
  have h1 : (s.regWrite1 regPower vPowerAll).startStream.Honest := h.regWrite regPower [vPowerAll]
  have h2 := emitBytes_honest h1 (txStream (stampId header (s.regWrite1 regPower vPowerAll).nextMessageId) payload)
  exact (h2.regWrite regFifos (State.txBytes _ 0 (11 + payloadLength header))).congr rfl

theorem pollEnd_honest {s u : State} (h : s.Honest) (hu : PollEnd s u) : u.Honest := by
  cases hu with
  | idleUsb20 => exact h.afterTimerCheck
  | flip => exact startMeasurement_honest (h.sampleMillis.regRead regStatus0 1) _
  | pdWait => exact enterPdWait_honest (h.sampleMillis.regRead regStatus0 1) _
  | idle => exact h.sampleIntN.afterTimerCheck
  | timeout => exact enterRetryWait_honest (h.sampleIntN.sampleMillis.record rfl rfl)
  | retry => exact startSinkBody_honest h.sampleIntN.sampleMillis
  | hardReset => exact enterRetryWait_honest ((threeReads_honest h.sampleIntN).record rfl rfl)
  | pass => exact passed_honest h.sampleIntN
  | drained _ hd =>
    exact drain_induct (P := State.Honest) (fun _ h => h.regRead regStatus1 1) (fun _ h => deframe_honest h) hd
      (passed_honest h.sampleIntN)

/-- Whatever an instruction reaches, its trace records its bus errors. -/
theorem body_honest {i : Instr} {s u : State} (h : body i s = .ok u) : u.Honest := by
  have h0 : s.begin.Honest := .nil
  cases i with
  | init => cases h; exact (initBody_honest h0).respond _ _
  | startSink => cases h; exact (startSinkBody_honest h0).respond _ _
  | poll =>
    simp only [body] at h
    cases hb : pollBody s.begin with
    | error f => rw [hb] at h; cases h
    | ok v => rw [hb, respondOk] at h; cases h; exact (pollEnd_honest h0 (pollBody_ends hb)).respond _ _
  | sendMessage header => cases h; exact (sendMessageBody_honest h0 _ _).respond _ _
  | sendHeaderMessage type rev =>
    simp only [body] at h
    split at h
    · cases h; exact (sendMessageBody_honest h0 _ _).respond _ _
    · cases h; exact BusErrorsRecorded.nil
  | getDeviceId => cases h; exact (h0.regRead regDeviceId 1).respond _ _
  | rxTokenSop low =>
    cases h
    have h1 : (s.begin.presentToken (0b111#3 ++ low)).Honest := h0
    exact deframe_honest h1
  | popEvent =>
    simp only [body] at h
    split at h <;> cases h <;> exact BusErrorsRecorded.nil
  | createCtrl type rev =>
    simp only [body] at h
    split at h <;> cases h <;> exact BusErrorsRecorded.nil
  | createData type n rev =>
    simp only [body] at h
    split at h <;> cases h <;> exact BusErrorsRecorded.nil
  | tokSop1 | tokSop2 | tokJamCrc | tokEop | tokTxoff | tokTxon =>
    simp only [body, tokenBody] at h
    split at h <;> cases h
    exact BusErrorsRecorded.nil
  | tokPacksym len =>
    simp only [body, tokenBody] at h
    split at h <;> cases h
    exact BusErrorsRecorded.nil
  | _ => cases h; exact BusErrorsRecorded.nil

/-- In every step that goes on the trace records its bus errors. -/
theorem exec_busErrorsRecorded {i : Instr} {s t : State} (h : exec i s = .next t) : BusErrorsRecorded t.trace := by
  obtain ⟨u, hu, e⟩ := exec_next h
  exact (body_honest hu).congr (by rw [e])

/-- In every step that takes a request and goes on the trace records its bus errors. -/
theorem step_busErrorsRecorded {s t : State} (hi : s.inbox ≠ []) (h : step s = .next t) : BusErrorsRecorded t.trace := by
  rcases step_next h with ⟨he, _⟩ | ⟨r, rest, _, ⟨i, _, he⟩ | ⟨w, payload, _, he⟩ | ⟨b, _, he⟩⟩
  · exact absurd he hi
  · exact exec_busErrorsRecorded he
  · rw [he]; exact .nil
  · have h0 : ((s.take r rest).begin.presentToken b).Honest := BusErrorsRecorded.nil
    exact (deframe_honest h0).congr (by rw [he])

end Sys2Proof.Machine
end

