-- ==== Sys2Proof/Laws/Hidden.lean ====
section
/-! SUPPORT. No sub-sequence looks at `tx_buf`, the place in it or the clock hold before the end of a step: replacing them
first or last is the same. -/

namespace Sys2Proof.Machine

/-- A state with the fields no sub-sequence reads replaced. -/
def State.hidden (s : State) (b : Memory) (p : Nat) (x : Option Nat) : State :=
  { s with txBuf := b, txPos := p, sclHold := x }

/-- The same, of a result that may be stuck. -/
def hiddenOr (b : Memory) (p : Nat) (x : Option Nat) : Except Fault State → Except Fault State
  | .ok s => .ok (s.hidden b p x)
  | .error f => .error f

variable (s : State) (b : Memory) (p : Nat) (x : Option Nat)

@[simp] theorem hidden_attach : (s.hidden b p x).attach = s.attach := rfl
@[simp] theorem hidden_measCc : (s.hidden b p x).measCc = s.measCc := rfl
@[simp] theorem hidden_timerActive : (s.hidden b p x).timerActive = s.timerActive := rfl
@[simp] theorem hidden_evq : (s.hidden b p x).evq = s.evq := rfl
@[simp] theorem hidden_rxIdx : (s.hidden b p x).rxIdx = s.rxIdx := rfl
@[simp] theorem hidden_chipIn : (s.hidden b p x).chipIn = s.chipIn := rfl
@[simp] theorem hidden_trace : (s.hidden b p x).trace = s.trace := rfl
@[simp] theorem hidden_wire : (s.hidden b p x).wire = s.wire := rfl
@[simp] theorem hidden_payloadPort : (s.hidden b p x).payloadPort = s.payloadPort := rfl
@[simp] theorem hidden_generation (k : BitVec 2) : (s.hidden b p x).generation k = s.generation k := rfl
@[simp] theorem hidden_ringByte (k : BitVec 2) (o : Nat) : (s.hidden b p x).ringByte k o = s.ringByte k o := rfl
@[simp] theorem hidden_readByte : (s.hidden b p x).readByte = s.readByte := rfl
@[simp] theorem hidden_readData (n : Nat) : (s.hidden b p x).readData n = s.readData n := rfl
@[simp] theorem hidden_intNLow : (s.hidden b p x).intNLow = s.intNLow := rfl
@[simp] theorem hidden_timerExpired : (s.hidden b p x).timerExpired = s.timerExpired := rfl

@[simp] theorem hidden_begin : (s.hidden b p x).begin = s.begin.hidden b p x := rfl
@[simp] theorem hidden_respond (st : BitVec 2) (v : Word) :
    (s.hidden b p x).respond st v = (s.respond st v).hidden b p x := rfl
@[simp] theorem hidden_raise (c : Condition) : (s.hidden b p x).raise c = (s.raise c).hidden b p x := rfl
@[simp] theorem hidden_regWrite (r : Byte) (v : List Byte) :
    (s.hidden b p x).regWrite r v = (s.regWrite r v).hidden b p x := rfl
@[simp] theorem hidden_regRead (r : Byte) (n : Nat) : (s.hidden b p x).regRead r n = (s.regRead r n).hidden b p x := rfl
@[simp] theorem hidden_presentToken (t : Byte) :
    (s.hidden b p x).presentToken t = (s.presentToken t).hidden b p x := rfl
@[simp] theorem hidden_sampleMillis : (s.hidden b p x).sampleMillis = s.sampleMillis.hidden b p x := rfl
@[simp] theorem hidden_sampleIntN : (s.hidden b p x).sampleIntN = s.sampleIntN.hidden b p x := rfl
@[simp] theorem hidden_popped (e : Event) (rest : List Event) :
    (s.hidden b p x).popped e rest = (s.popped e rest).hidden b p x := rfl
@[simp] theorem hidden_delay (ms : Word) : (s.hidden b p x).delay ms = (s.delay ms).hidden b p x := rfl
@[simp] theorem hidden_initIntN : (s.hidden b p x).initIntN = s.initIntN.hidden b p x := rfl
@[simp] theorem hidden_timerStart (ms : Word) : (s.hidden b p x).timerStart ms = (s.timerStart ms).hidden b p x := rfl

@[simp] theorem hidden_push (e : Event) : (s.hidden b p x).push e = (s.push e).hidden b p x := by
  unfold State.push
  rw [hidden_evq]
  split <;> rfl

@[simp] theorem hidden_afterTimerCheck : (s.hidden b p x).afterTimerCheck = s.afterTimerCheck.hidden b p x := by
  unfold State.afterTimerCheck
  rw [hidden_timerActive]
  split <;> rfl

@[simp] theorem hidden_chipBringup : chipBringup (s.hidden b p x) = (chipBringup s).hidden b p x := by
  unfold chipBringup
  simp only [State.regWrite1_eq, hidden_regWrite, hidden_delay]

@[simp] theorem hidden_initBody : initBody (s.hidden b p x) = (initBody s).hidden b p x := by
  unfold initBody
  rw [hidden_chipBringup]
  rfl

@[simp] theorem hidden_startMeasurement (c : Cc) :
    startMeasurement c (s.hidden b p x) = (startMeasurement c s).hidden b p x := by
  unfold startMeasurement
  simp only [State.regWrite1_eq, hidden_regWrite, hidden_timerStart]
  rfl

@[simp] theorem hidden_startSinkBody : startSinkBody (s.hidden b p x) = (startSinkBody s).hidden b p x := by
  unfold startSinkBody
  rw [← hidden_startMeasurement]
  rfl

@[simp] theorem hidden_enterPdWait (c : Cc) : enterPdWait c (s.hidden b p x) = (enterPdWait c s).hidden b p x := by
  have h : pdWaitWrites c (s.initIntN.hidden b p x) = (pdWaitWrites c s.initIntN).hidden b p x := by
    unfold pdWaitWrites
    simp only [State.regWrite1_eq, hidden_regWrite]
  unfold enterPdWait
  rw [hidden_initIntN, h, ← hidden_timerStart]
  rfl

@[simp] theorem hidden_enterRetryWait : enterRetryWait (s.hidden b p x) = (enterRetryWait s).hidden b p x := by
  unfold enterRetryWait
  rw [hidden_initBody, ← hidden_push, ← hidden_timerStart]
  rfl

@[simp] theorem hidden_enterUsbPd : enterUsbPd (s.hidden b p x) = (enterUsbPd s).hidden b p x := by
  unfold enterUsbPd
  rw [hidden_attach]
  split
  · rfl
  · rw [← hidden_push]; rfl

@[simp] theorem hidden_acceptFrame (h : Header) : acceptFrame h (s.hidden b p x) = (acceptFrame h s).hidden b p x := by
  unfold acceptFrame
  simp only [hidden_enterUsbPd, hidden_rxIdx, hidden_generation, hidden_push]
  rfl

@[simp] theorem hidden_judgeFrame (h : Header) (st : Byte) :
    judgeFrame h st (s.hidden b p x) = (judgeFrame h st s).hidden b p x := by
  unfold judgeFrame
  split
  · split
    · rfl
    · exact hidden_acceptFrame s b p x h
  · rfl

@[simp] theorem hidden_frameStored (h : Header) :
    frameStored h (s.hidden b p x) = (frameStored h s).hidden b p x := rfl

@[simp] theorem hidden_deframe : deframe (s.hidden b p x) = ((deframe s).1, (deframe s).2.hidden b p x) := by
  unfold deframe
  simp only [hidden_regRead, hidden_readData, receiveFrame_eq, hidden_chipIn, hidden_frameStored, hidden_judgeFrame]
  split <;> rfl

theorem hidden_drain (k : Nat) : drain k (s.hidden b p x) = hiddenOr b p x (drain k s) := by
  induction k generalizing s with
  | zero => rfl
  | succ k ih =>
    rw [drain_succ, drain_succ]
    by_cases h1 : rxEmpty s.readByte = true
    · rw [if_pos h1, if_pos (show rxEmpty (s.hidden b p x).readByte = true from h1)]; rfl
    · rw [if_neg h1, if_neg (show ¬ rxEmpty (s.hidden b p x).readByte = true from h1), hidden_regRead, hidden_deframe]
      by_cases h2 : (deframe (s.regRead regStatus1 1)).1 = true
      · rw [if_pos h2, if_pos h2]; exact ih _
      · rw [if_neg h2, if_neg h2]; rfl

@[simp] theorem hidden_noteRetryFail (a : Byte) :
    noteRetryFail a (s.hidden b p x) = (noteRetryFail a s).hidden b p x := by
  unfold noteRetryFail
  split <;> rfl

@[simp] theorem hidden_handleTxSent (a : Byte) :
    handleTxSent a (s.hidden b p x) = (handleTxSent a s).hidden b p x := by
  unfold handleTxSent
  split
  · rw [txSent_eq, txSent_eq]
    by_cases h : txEmpty s.readByte = true
    · rw [if_pos h, if_pos (show txEmpty (s.hidden b p x).readByte = true from h)]; rfl
    · rw [if_neg h, if_neg (show ¬ txEmpty (s.hidden b p x).readByte = true from h)]; rfl
  · rfl

theorem hidden_handleInterrupts : handleInterrupts (s.hidden b p x) = hiddenOr b p x (handleInterrupts s) := by
  have hp : passed (s.hidden b p x) = (passed s).hidden b p x := by
    unfold passed
    simp only [hidden_regRead, hidden_readByte, hidden_noteRetryFail, hidden_handleTxSent]
  have hh : passedHardReset (s.hidden b p x) = (passedHardReset s).hidden b p x := rfl
  simp only [handleInterrupts_eq, hidden_regRead, hidden_readByte, hp, hh, hidden_enterRetryWait]
  split
  · rfl
  · split
    · exact hidden_drain _ _ _ _ _
    · rfl

theorem hidden_pollTimer : pollTimer (s.hidden b p x) = hiddenOr b p x (pollTimer s) := by
  unfold pollTimer
  simp only [hidden_timerExpired, hidden_afterTimerCheck]
  split
  · unfold onExpiry
    simp only [hidden_attach]
    cases s.afterTimerCheck.attach with
    | usb20 =>
      simp only [checkMeasurement, hidden_measCc]
      cases s.afterTimerCheck.measCc with
      | none => rfl
      | some c =>
        simp only [State.regRead1_eq, hidden_regRead, hidden_readByte, hidden_startMeasurement, hidden_enterPdWait]
        split <;> rfl
    | usbPdWait => simp only [hidden_raise, hidden_enterRetryWait]; rfl
    | usbPd => rfl
    | usbRetryWait => simp only [hidden_startSinkBody]; rfl
  · rfl

/-- POLL's body. -/
theorem hidden_pollBody : pollBody (s.hidden b p x) = hiddenOr b p x (pollBody s) := by
  by_cases ha : s.attach = .usb20
  · rw [pollBody_usb20 ha, pollBody_usb20 (s := s.hidden b p x) ha]
    exact hidden_pollTimer ..
  · cases hi : s.intNLow with
    | true =>
      rw [pollBody_interrupt ha hi, pollBody_interrupt (s := s.hidden b p x) ha hi, hidden_sampleIntN]
      exact hidden_handleInterrupts ..
    | false =>
      rw [pollBody_timer ha hi, pollBody_timer (s := s.hidden b p x) ha hi, hidden_sampleIntN]
      exact hidden_pollTimer ..

/-! The framer. -/

/-- Building a stream is a replacement of `tx_buf` and the place in it. -/
theorem emitBytes_eq (bs : List Byte) (s : State) :
    s.emitBytes bs = s.hidden (s.txBuf.writeList s.txPos bs) (s.txPos + bs.length) s.sclHold := by
  apply State.ext <;> simp [State.hidden]

/-- SEND_MESSAGE as its two transactions, the stream in `tx_buf` and the next ID (R250 to R254). -/
theorem sendMessageBody_eq (header : Header) (payload : List Byte) (s : State)
    (hp : payload.length = payloadLength header) :
    sendMessageBody header payload s =
      { (s.regWrite regPower [vPowerAll]).regWrite regFifos (txStream (stampId header s.nextMessageId) payload) with
        nextMessageId := s.nextMessageId + 1#3
        txBuf := s.txBuf.writeList 0 (txStream (stampId header s.nextMessageId) payload)
        txPos := 11 + payloadLength header } := by
  have hl : (txStream (stampId header s.nextMessageId) payload).length = 11 + payloadLength header := by
    simp [txStream, hp]; omega
  have hb := State.txBytes_writeList (t := (s.regWrite regPower [vPowerAll]).startStream.emitBytes
    (txStream (stampId header s.nextMessageId) payload)) (m := s.txBuf) (a := 0)
    (txStream (stampId header s.nextMessageId) payload) (by simp)
  rw [hl] at hb
  have h0 : (s.regWrite1 regPower vPowerAll).nextMessageId = s.nextMessageId := by simp
  simp only [sendMessageBody, h0]
  rw [State.regWrite1_eq, hb, emitBytes_eq, hidden_regWrite]
  have hs : ∀ v : List Byte, (s.regWrite regPower [vPowerAll]).startStream.regWrite regFifos v
      = ((s.regWrite regPower [vPowerAll]).regWrite regFifos v).hidden (s.regWrite regPower [vPowerAll]).txBuf 0
        (s.regWrite regPower [vPowerAll]).sclHold := fun _ => rfl
  rw [hs]
  apply State.ext <;> simp [State.hidden, hl]

end Sys2Proof.Machine
end

