-- ==== Sys2Proof/Laws/PerInstr.lean ====
section
/-! SUPPORT. The family TableMatch: an instruction's encoding has the fixed bits that its row of spec/opcode_table.json gives,
for every value of its operands. Masks and matches are the table's. -/

namespace Sys2Proof.Laws.TableMatch

/-- A command word has the fixed bits of a row of the command map (R101, R103). -/
def command (mask matched : Word) (i : Instr) : Prop := ∃ w, encode i = .command w ∧ w &&& mask = matched

/-- A byte has the fixed bits of a TX token row (R120, R121). -/
def txToken (mask matched : Byte) (i : Instr) : Prop := ∃ b, encode i = .txToken b ∧ b &&& mask = matched

/-- A byte has the fixed bits of the RX token row (R124). -/
def rxToken (mask matched : Byte) (i : Instr) : Prop := ∃ b, encode i = .rxToken b ∧ b &&& mask = matched

/-- The row of each instruction. -/
def Statement (i : Instr) : Prop :=
  match i with
  | .init => command 0xFFFFFFFF#32 0x00000001#32 i
  | .startSink => command 0xFFFFFFFF#32 0x00000002#32 i
  | .poll => command 0xFFFFFFFF#32 0x00000003#32 i
  | .sendMessage _ => command 0xFF0000FF#32 0x00000004#32 i
  | .sendHeaderMessage _ _ => command 0xFFFF80FF#32 0x00000005#32 i
  | .hasEvent => command 0xFFFFFFFF#32 0x00000006#32 i
  | .popEvent => command 0xFFFFFFFF#32 0x00000007#32 i
  | .getState => command 0xFFFFFFFF#32 0x00000008#32 i
  | .getDeviceId => command 0xFFFFFFFF#32 0x00000009#32 i
  | .readRxByte _ _ => command 0xFFFF00FF#32 0x0000000A#32 i
  | .eventCount => command 0xFFFFFFFF#32 0x0000000B#32 i
  | .createCtrl _ _ => command 0xFFFF80FF#32 0x00000010#32 i
  | .createData _ _ _ => command 0xFFFC00FF#32 0x00000011#32 i
  | .hdrMessageType _ => command 0xFF0000FF#32 0x00000012#32 i
  | .hdrNumDataObjs _ => command 0xFF0000FF#32 0x00000013#32 i
  | .hdrSpecRev _ => command 0xFF0000FF#32 0x00000014#32 i
  | .hdrMessageId _ => command 0xFF0000FF#32 0x00000015#32 i
  | .hdrExtended _ => command 0xFF0000FF#32 0x00000016#32 i
  | .hdrDataRole _ => command 0xFF0000FF#32 0x00000017#32 i
  | .hdrPowerRole _ => command 0xFF0000FF#32 0x00000018#32 i
  | .tokSop1 => txToken 0xFF#8 0x12#8 i
  | .tokSop2 => txToken 0xFF#8 0x13#8 i
  | .tokPacksym _ => txToken 0xE0#8 0x80#8 i
  | .tokJamCrc => txToken 0xFF#8 0xFF#8 i
  | .tokEop => txToken 0xFF#8 0x14#8 i
  | .tokTxoff => txToken 0xFF#8 0xFE#8 i
  | .tokTxon => txToken 0xFF#8 0xA1#8 i
  | .rxTokenSop _ => rxToken 0xE0#8 0xE0#8 i

/-- The fixed bits of format H (R103). -/
theorem formatH_bits (header : Header) (opcode : Byte) :
    (0#8 ++ header ++ opcode : Word) &&& 0xFF0000FF#32 = 0#24 ++ (opcode &&& 0xFF#8) := by
  rw [show (0xFF0000FF#32 : Word) = 0xFF#8 ++ 0#16 ++ 0xFF#8 from rfl, BitVec.and_append, BitVec.and_append,
    BitVec.and_zero]
  rfl

/-- The fixed bits of format T (R103). -/
theorem formatT_bits (type : BitVec 5) (rev : BitVec 2) (opcode : Byte) :
    (0#17 ++ rev ++ type ++ opcode : Word) &&& 0xFFFF80FF#32 = 0#24 ++ (opcode &&& 0xFF#8) := by
  rw [show (0xFFFF80FF#32 : Word) = 0x1FFFF#17 ++ 0#2 ++ 0#5 ++ 0xFF#8 from rfl, BitVec.and_append, BitVec.and_append,
    BitVec.and_append, BitVec.and_zero, BitVec.and_zero]
  rfl

/-- The fixed bits of format D (R103). -/
theorem formatD_bits (type : BitVec 5) (n : BitVec 3) (rev : BitVec 2) (opcode : Byte) :
    (0#14 ++ n ++ rev ++ type ++ opcode : Word) &&& 0xFFFC00FF#32 = 0#24 ++ (opcode &&& 0xFF#8) := by
  rw [show (0xFFFC00FF#32 : Word) = 0x3FFF#14 ++ 0#3 ++ 0#2 ++ 0#5 ++ 0xFF#8 from rfl, BitVec.and_append,
    BitVec.and_append, BitVec.and_append, BitVec.and_append, BitVec.and_zero, BitVec.and_zero, BitVec.and_zero]
  rfl

/-- The fixed bits of format X (R103). -/
theorem formatX_bits (slot : BitVec 2) (offset : BitVec 6) (opcode : Byte) :
    (0#16 ++ offset ++ slot ++ opcode : Word) &&& 0xFFFF00FF#32 = 0#24 ++ (opcode &&& 0xFF#8) := by
  rw [show (0xFFFF00FF#32 : Word) = 0xFFFF#16 ++ 0#6 ++ 0#2 ++ 0xFF#8 from rfl, BitVec.and_append, BitVec.and_append,
    BitVec.and_append, BitVec.and_zero, BitVec.and_zero]
  rfl

theorem init : Statement .init := ⟨_, rfl, rfl⟩
theorem startSink : Statement .startSink := ⟨_, rfl, rfl⟩
theorem poll : Statement .poll := ⟨_, rfl, rfl⟩
theorem sendMessage (header : Header) : Statement (.sendMessage header) := ⟨_, rfl, (formatH_bits header _).trans rfl⟩
theorem sendHeaderMessage (type : BitVec 5) (rev : BitVec 2) : Statement (.sendHeaderMessage type rev) := ⟨_, rfl, (formatT_bits type rev _).trans rfl⟩
theorem hasEvent : Statement .hasEvent := ⟨_, rfl, rfl⟩
theorem popEvent : Statement .popEvent := ⟨_, rfl, rfl⟩
theorem getState : Statement .getState := ⟨_, rfl, rfl⟩
theorem getDeviceId : Statement .getDeviceId := ⟨_, rfl, rfl⟩
theorem readRxByte (slot : BitVec 2) (offset : BitVec 6) : Statement (.readRxByte slot offset) := ⟨_, rfl, (formatX_bits slot offset _).trans rfl⟩
theorem eventCount : Statement .eventCount := ⟨_, rfl, rfl⟩
theorem createCtrl (type : BitVec 5) (rev : BitVec 2) : Statement (.createCtrl type rev) := ⟨_, rfl, (formatT_bits type rev _).trans rfl⟩
theorem createData (type : BitVec 5) (n : BitVec 3) (rev : BitVec 2) : Statement (.createData type n rev) := ⟨_, rfl, (formatD_bits type n rev _).trans rfl⟩
theorem hdrMessageType (header : Header) : Statement (.hdrMessageType header) := ⟨_, rfl, (formatH_bits header _).trans rfl⟩
theorem hdrNumDataObjs (header : Header) : Statement (.hdrNumDataObjs header) := ⟨_, rfl, (formatH_bits header _).trans rfl⟩
theorem hdrSpecRev (header : Header) : Statement (.hdrSpecRev header) := ⟨_, rfl, (formatH_bits header _).trans rfl⟩
theorem hdrMessageId (header : Header) : Statement (.hdrMessageId header) := ⟨_, rfl, (formatH_bits header _).trans rfl⟩
theorem hdrExtended (header : Header) : Statement (.hdrExtended header) := ⟨_, rfl, (formatH_bits header _).trans rfl⟩
theorem hdrDataRole (header : Header) : Statement (.hdrDataRole header) := ⟨_, rfl, (formatH_bits header _).trans rfl⟩
theorem hdrPowerRole (header : Header) : Statement (.hdrPowerRole header) := ⟨_, rfl, (formatH_bits header _).trans rfl⟩
theorem tokSop1 : Statement .tokSop1 := ⟨_, rfl, rfl⟩
theorem tokSop2 : Statement .tokSop2 := ⟨_, rfl, rfl⟩
theorem tokPacksym (len : BitVec 5) : Statement (.tokPacksym len) := ⟨_, rfl, by revert len; decide⟩
theorem tokJamCrc : Statement .tokJamCrc := ⟨_, rfl, rfl⟩
theorem tokEop : Statement .tokEop := ⟨_, rfl, rfl⟩
theorem tokTxoff : Statement .tokTxoff := ⟨_, rfl, rfl⟩
theorem tokTxon : Statement .tokTxon := ⟨_, rfl, rfl⟩
theorem rxTokenSop (low : BitVec 5) : Statement (.rxTokenSop low) := ⟨_, rfl, by revert low; decide⟩

end Sys2Proof.Laws.TableMatch
end

