-- ==== Sys2Proof/Laws/Wire.lean ====
section
/-! SUPPORT. What a stretched clock is on the wire, and what its receiver samples (R322, R340, R341). -/

namespace Sys2Proof.Machine

/-- While the target stretches the clock nothing is sampled; when SCL reads high SDA is. -/
theorem sampledBits_sclRise (stretch : Nat) (sda : Wire) (rest : List Phase) :
    sampledBits false (sclRise stretch sda ++ rest) = sda.high :: sampledBits true rest := by
  unfold sclRise
  induction stretch with
  | zero => rfl
  | succ n ih => exact ih

/-- One clock gives its receiver one bit, however long it is stretched. -/
theorem sampledBits_clockBit (stretch : Nat) (sda : Wire) (rest : List Phase) :
    sampledBits false (clockBit stretch sda ++ rest) = sda.high :: sampledBits false rest := by
  have e : clockBit stretch sda ++ rest = ⟨.masterLow, sda⟩ :: (sclRise stretch sda ++ (⟨.masterLow, sda⟩ :: rest)) := by
    simp [clockBit]
  rw [e]
  exact sampledBits_sclRise stretch sda _

/-- A run of clocks gives its receiver the levels of SDA. -/
theorem sampledBits_clocks (stretch : Nat → Nat) (wires : List Wire) :
    sampledBits false (clocks stretch wires) = wires.map Wire.high := by
  induction wires generalizing stretch with
  | nil => rfl
  | cons w ws ih => rw [clocks, sampledBits_clockBit, ih]; rfl

/-- Without its stretched phases a rise is the rise without stretching. -/
theorem sclRise_filter (stretch : Nat) (sda : Wire) :
    (sclRise stretch sda).filter (fun p => !p.stretched) = sclRise 0 sda := by
  unfold sclRise
  induction stretch with
  | zero => rfl
  | succ n ih => exact ih

/-- A stretched phase of a rise is the target's hold on SCL. -/
theorem sclRise_stretched (stretch : Nat) (sda : Wire) (p : Phase) (h : p ∈ sclRise stretch sda) (hp : p.stretched = true) :
    p.scl = ⟨.release, .low⟩ := by
  rcases List.mem_append.mp h with h | h
  · rw [(List.mem_replicate.mp h).2]
  · rw [List.mem_singleton.mp h] at hp; cases hp

/-- The same of one clock. -/
theorem clockBit_filter (stretch : Nat) (sda : Wire) :
    (clockBit stretch sda).filter (fun p => !p.stretched) = clockBit 0 sda := by
  unfold clockBit
  rw [List.filter_append, List.filter_cons_of_pos rfl, sclRise_filter]
  rfl

theorem clockBit_stretched (stretch : Nat) (sda : Wire) (p : Phase) (h : p ∈ clockBit stretch sda)
    (hp : p.stretched = true) : p.scl = ⟨.release, .low⟩ := by
  simp only [clockBit, List.mem_append, List.mem_cons, List.not_mem_nil, or_false] at h
  rcases h with (rfl | h) | rfl
  · cases hp
  · exact sclRise_stretched _ _ _ h hp
  · cases hp

/-- The same of a run of clocks. -/
theorem clocks_filter (stretch : Nat → Nat) (wires : List Wire) :
    (clocks stretch wires).filter (fun p => !p.stretched) = clocks (fun _ => 0) wires := by
  induction wires generalizing stretch with
  | nil => rfl
  | cons w ws ih => rw [clocks, List.filter_append, clockBit_filter, ih]; rfl

theorem clocks_stretched (stretch : Nat → Nat) (wires : List Wire) (p : Phase) (h : p ∈ clocks stretch wires)
    (hp : p.stretched = true) : p.scl = ⟨.release, .low⟩ := by
  induction wires generalizing stretch with
  | nil => cases h
  | cons w ws ih =>
    rcases List.mem_append.mp h with h | h
    · exact clockBit_stretched _ _ _ h hp
    · exact ih _ h

end Sys2Proof.Machine
end

