-- ==== Sys2Proof/Tests/Slice0.lean ====
section
/-! SUPPORT. Tests: the refusals of WellFormed, words written out from the spec's encodings, single steps with the results
that spec/95_test_vectors.md (and the rules named) give, and for every statement with hypotheses a state that meets them. -/

namespace Sys2Proof.Tests

open Sys2Proof.Machine Sys2Proof.Statements

/-! ## Small states and what is read off a step -/

/-- What is read off a step that goes on. -/
def after {α : Type} (o : Host.Outcome State Fault Refusal) (f : State → α) : Option α :=
  match o with
  | .next t => some (f t)
  | .fault _ => none
  | .refused _ => none

/-- The fault of a step that stops. -/
def faultOf (o : Host.Outcome State Fault Refusal) : Option Fault :=
  match o with
  | .next _ => none
  | .fault f => some f
  | .refused _ => none

/-- The refusal of a step that is refused. -/
def refusalOf (o : Host.Outcome State Fault Refusal) : Option Refusal :=
  match o with
  | .next _ => none
  | .fault _ => none
  | .refused r => some r

/-- A payload port that begins with these bytes. -/
def portOf (bytes : List Byte) : Vector Byte 28 := Vector.ofFn fun i => bytes.getD i.val 0#8

/-- The command word is next, on a chip that acknowledges everything. -/
def asked (s : State) (w : Word) : State :=
  { s with inbox := [.command w (Vector.replicate 28 0#8)], ackIn := ⟨List.replicate 64 true, 0⟩ }

/-- One step that runs a command word. -/
def run (s : State) (w : Word) : Host.Outcome State Fault Refusal := step (asked s w)

/-- The bytes the chip returns, the counter samples and the INT_N samples (low is true) of a step. -/
def env (s : State) (chip : List Byte) (samples : List Word) (intN : List Bool) : State :=
  { s with chipIn := ⟨chip, 0⟩, millisIn := ⟨samples, 0⟩, intNIn := ⟨intN, 0⟩, ackIn := ⟨List.replicate 128 true, 0⟩ }

/-- `Usb20` measuring CC1, timer at 1010 (95 section 2.7). -/
def measuring : State := { State.reset with measCc := some .cc1, timerActive := true, timerExp := 1010#32 }

/-- `UsbPdWait`, timer at 1310 (95 section 2.7). -/
def pdWait : State :=
  { State.reset with attach := .usbPdWait, timerActive := true, timerExp := 1310#32, intNMode := .input }

/-- `UsbPd`. -/
def inPd : State := { State.reset with attach := .usbPd, intNMode := .input }

/-- `UsbRetryWait`, timer at 1820 (95 section 2.7). -/
def retryWait : State := { State.reset with attach := .usbRetryWait, timerActive := true, timerExp := 1820#32 }

/-- The accepted data frame of 95 section 2.6. -/
def dataFrame : RxFrame :=
  ⟨0x08#8, 0xE0#8, 0x81#8, 0x11#8, [0x2C#8, 0x91#8, 0x01#8, 0x08#8, 0x11#8, 0x22#8, 0x33#8, 0x44#8], 0x91#8⟩

/-- The GoodCRC frame of 95 section 2.6. -/
def goodCrcFrame : RxFrame := ⟨0x08#8, 0xE0#8, 0x41#8, 0x02#8, [0xCC#8, 0xCC#8, 0xCC#8, 0xCC#8], 0x91#8⟩

/-- The data frame with CRC_CHK clear (95 section 2.6). -/
def badCrcFrame : RxFrame := { dataFrame with status0 := 0x81#8 }

/-- The Accept frame of 95 section 2.6. -/
def acceptFrame' : RxFrame := ⟨0x08#8, 0xE0#8, 0xA3#8, 0x05#8, [0x99#8, 0xAA#8, 0xBB#8, 0xCC#8], 0x91#8⟩

/-- A POLL in which the chip answers an interrupt pass and a drain of frames (95 section 2.6). -/
def polled (s : State) (frames : List RxFrame) (ending : List Byte) : State :=
  env s ([0x50#8, 0x00#8, 0x01#8] ++ frames.flatMap RxFrame.chip ++ ending) [] [true]

/-! ## WellFormed -/

/-- R109: revision 0. -/
theorem test_wf_send_header_message_rev : (Instr.sendHeaderMessage 0x0D#5 0#2).wellFormed = false := by decide
theorem test_wf_create_ctrl_rev : (Instr.createCtrl 0x01#5 0#2).wellFormed = false := by decide
theorem test_wf_create_data_rev : (Instr.createData 0x02#5 1#3 0#2).wellFormed = false := by decide
/-- R109: object count 0. -/
theorem test_wf_create_data_count : (Instr.createData 0x02#5 0#3 2#2).wellFormed = false := by decide
/-- R121: a count that is not `4n + 2`. -/
theorem test_wf_packsym : (Instr.tokPacksym 7#5).wellFormed = false := by decide
theorem test_wf_legal : (Instr.createData 0x02#5 1#3 2#2).wellFormed = true ∧ (Instr.tokPacksym 30#5).wellFormed = true := by
  decide

/-! ## Decoding: the words of 95 section 2.1, the fields written out where it gives none -/

theorem test_decode_init : decodesTo (decode (.command 0x00000001#32)) .init = true := by decide
theorem test_decode_startSink : decodesTo (decode (.command 0x00000002#32)) .startSink = true := by decide
theorem test_decode_poll : decodesTo (decode (.command 0x00000003#32)) .poll = true := by decide
theorem test_decode_sendMessage : decodesTo (decode (.command 0x00108204#32)) (.sendMessage 0x1082#16) = true := by decide
theorem test_decode_sendHeaderMessage :
    decodesTo (decode (.command 0x00004D05#32)) (.sendHeaderMessage 0x0D#5 2#2) = true := by decide
theorem test_decode_hasEvent : decodesTo (decode (.command 0x00000006#32)) .hasEvent = true := by decide
theorem test_decode_popEvent : decodesTo (decode (.command 0x00000007#32)) .popEvent = true := by decide
theorem test_decode_getState : decodesTo (decode (.command 0x00000008#32)) .getState = true := by decide
theorem test_decode_getDeviceId : decodesTo (decode (.command 0x00000009#32)) .getDeviceId = true := by decide
theorem test_decode_readRxByte : decodesTo (decode (.command 0x0000FF0A#32)) (.readRxByte 3#2 63#6) = true ∧
    decodesTo (decode (.command 0x00000D0A#32)) (.readRxByte 1#2 3#6) = true := by decide
theorem test_decode_eventCount : decodesTo (decode (.command 0x0000000B#32)) .eventCount = true := by decide
theorem test_decode_createCtrl : decodesTo (decode (.command 0x00006310#32)) (.createCtrl 0x03#5 3#2) = true := by decide
theorem test_decode_createData :
    decodesTo (decode (.command 0x0003E111#32)) (.createData 0x01#5 7#3 3#2) = true ∧
    decodesTo (decode (.command 0x0000C211#32)) (.createData 0x02#5 1#3 2#2) = true := by decide
theorem test_decode_hdrMessageType :
    decodesTo (decode (.command 0x00118112#32)) (.hdrMessageType 0x1181#16) = true := by decide
theorem test_decode_hdrNumDataObjs :
    decodesTo (decode (.command 0x0071A113#32)) (.hdrNumDataObjs 0x71A1#16) = true := by decide
theorem test_decode_hdrSpecRev : decodesTo (decode (.command 0x00118114#32)) (.hdrSpecRev 0x1181#16) = true := by decide
/-- Format H with opcode 0x15 and header 0x0241. -/
theorem test_decode_hdrMessageId : decodesTo (decode (.command 0x00024115#32)) (.hdrMessageId 0x0241#16) = true := by decide
/-- Format H with opcode 0x16 and header 0x8000. -/
theorem test_decode_hdrExtended : decodesTo (decode (.command 0x00800016#32)) (.hdrExtended 0x8000#16) = true := by decide
/-- Format H with opcode 0x17 and header 0x23A1. -/
theorem test_decode_hdrDataRole : decodesTo (decode (.command 0x0023A117#32)) (.hdrDataRole 0x23A1#16) = true := by decide
/-- Format H with opcode 0x18 and header 0x1181. -/
theorem test_decode_hdrPowerRole : decodesTo (decode (.command 0x00118118#32)) (.hdrPowerRole 0x1181#16) = true := by decide
/-- R120. -/
theorem test_decode_tokens :
    decodesTo (decode (.txToken 0x12#8)) .tokSop1 = true ∧ decodesTo (decode (.txToken 0x13#8)) .tokSop2 = true ∧
    decodesTo (decode (.txToken 0xFF#8)) .tokJamCrc = true ∧ decodesTo (decode (.txToken 0x14#8)) .tokEop = true ∧
    decodesTo (decode (.txToken 0xFE#8)) .tokTxoff = true ∧ decodesTo (decode (.txToken 0xA1#8)) .tokTxon = true := by
  decide
/-- R121: a four-byte payload gives 0x86, a 28-byte one 0x9E. -/
theorem test_decode_packsym : decodesTo (decode (.txToken 0x86#8)) (.tokPacksym 6#5) = true ∧
    decodesTo (decode (.txToken 0x9E#8)) (.tokPacksym 30#5) = true := by decide
/-- R120: SOP3, RESET1 and RESET2 are never written. -/
theorem test_decode_unused_tokens : decodesTo (decode (.txToken 0x1B#8)) .tokSop1 = false ∧
    refusalOf (step { State.reset with inbox := [.txToken 0x1B#8] }) = some (.notATxToken 0x1B#8) := by decide
/-- R124, and 95 section 2.6: token 0xE7 is an SOP token. -/
theorem test_decode_rxToken : decodesTo (decode (.rxToken 0xE0#8)) (.rxTokenSop 0#5) = true ∧
    decodesTo (decode (.rxToken 0xE7#8)) (.rxTokenSop 7#5) = true := by decide
/-- R127, D27: the one-operand form is revision 2. -/
theorem test_pseudo_send_header_message : pseudoSendHeaderMessage 0x0D#5 = .sendHeaderMessage 0x0D#5 2#2 := by decide

/-- The rows of spec/opcode_table.json: width and fixed bits. -/
def tableRows : List (Nat × Nat) :=
  [(32, 0x01), (32, 0x02), (32, 0x03), (32, 0x04), (32, 0x05), (32, 0x06), (32, 0x07), (32, 0x08), (32, 0x09), (32, 0x0A)]
    ++ [(32, 0x0B), (32, 0x10), (32, 0x11), (32, 0x12), (32, 0x13), (32, 0x14), (32, 0x15), (32, 0x16), (32, 0x17)]
    ++ [(32, 0x18), (8, 0x12), (8, 0x13), (8, 0x80), (8, 0xFF), (8, 0x14), (8, 0xFE), (8, 0xA1), (8, 0xE0)]

/-- Every row's fixed bits decode, and the very next step after reset runs them. -/
theorem test_table_rows_run :
    (tableRows.all fun r =>
      (decodeTableWord r.1 r.2).isSome && goesOn (step (State.reset.withFetchWord r.1 r.2))) = true := by decide

/-! ## Illegal words: 95 section 2.1 -/

/-- ILLEGAL_COMMAND. -/
theorem test_illegal_commands :
    ([0x00000000#32, 0x0000000C#32, 0x000000FF#32, 0x00000103#32, 0x01104204#32, 0x00018005#32, 0x0001010A#32,
      0x80000110#32].all fun w =>
        after (run inPd w) (fun t => (t.resp, t.wire, t.evq)) == some (some ⟨1#2, 0#32⟩, [], [])) = true := by decide
/-- ILLEGAL_OPERAND. -/
theorem test_illegal_operands :
    ([0x00000110#32, 0x00004211#32, 0x00000D05#32].all fun w =>
        after (run inPd w) (fun t => (t.resp, t.wire, t.nextMessageId)) == some (some ⟨2#2, 0#32⟩, [], 0#3)) = true := by
  decide

/-! ## The header codec: 95 section 2.2 -/

/-- The answer of a command word. -/
def answerOf (w : Word) : Option (Option Response) := after (run State.reset w) State.resp

/-- Columns MESSAGE_TYPE, NUM_DATA_OBJS, SPEC_REV, MESSAGE_ID, EXTENDED, DATA_ROLE, POWER_ROLE of a header's row. -/
def fieldsOf (header : Header) : List (Option (Option Response)) :=
  [0x12#8, 0x13#8, 0x14#8, 0x15#8, 0x16#8, 0x17#8, 0x18#8].map fun opcode => answerOf (0#8 ++ header ++ opcode)

/-- A row of answers with status 0. -/
def row (values : List Word) : List (Option (Option Response)) := values.map fun v => some (some ⟨0#2, v⟩)

theorem test_hdr_23A1 : fieldsOf 0x23A1#16 = row [0x81#32, 2#32, 3#32, 1#32, 0#32, 1#32, 1#32] := by decide
theorem test_hdr_0241 : fieldsOf 0x0241#16 = row [0x01#32, 0#32, 2#32, 1#32, 0#32, 0#32, 0#32] := by decide
theorem test_hdr_FFFF : fieldsOf 0xFFFF#16 = row [0x9F#32, 7#32, 4#32, 7#32, 1#32, 1#32, 1#32] := by decide
theorem test_hdr_8000 : fieldsOf 0x8000#16 = row [0x00#32, 0#32, 1#32, 0#32, 1#32, 0#32, 0#32] := by decide
theorem test_create_ctrl : answerOf 0x00004110#32 = some (some ⟨0#2, 0x0041#32⟩) ∧
    answerOf 0x00006310#32 = some (some ⟨0#2, 0x0083#32⟩) := by decide
theorem test_create_data : answerOf 0x0000C211#32 = some (some ⟨0#2, 0x1042#32⟩) ∧
    answerOf 0x0003E111#32 = some (some ⟨0#2, 0x7081#32⟩) := by decide
theorem test_good_crc : isGoodCrc 0x0241#16 = true ∧ isGoodCrc 0x01A1#16 = true ∧ isGoodCrc 0x1181#16 = false ∧
    isGoodCrc 0x0243#16 = false := by decide
theorem test_stamp_id : stampId 0x1042#16 5#3 = 0x1A42#16 ∧ stampId 0x1042#16 7#3 = 0x1E42#16 ∧
    stampId 0x1242#16 4#3 = 0x1A42#16 := by decide

/-! ## The event queue and the RX ring: 95 sections 2.3 and 2.4 -/

theorem test_queue_empty : answerOf 0x00000006#32 = some (some ⟨0#2, 0#32⟩) ∧
    answerOf 0x0000000B#32 = some (some ⟨0#2, 0#32⟩) ∧ answerOf 0x00000007#32 = some (some ⟨0#2, 0#32⟩) := by decide
theorem test_pop_event :
    after (run { inPd with evq := [.stateChanged, .messageReceived 0x1181#16 0#2 1] } 0x00000007#32)
        (fun t => (t.resp, t.evq)) = some (some ⟨0#2, 3#32⟩, [.messageReceived 0x1181#16 0#2 1]) ∧
    after (run { inPd with evq := [.messageReceived 0xFFFF#16 3#2 1] } 0x00000007#32)
        (fun t => (t.resp, t.evq)) = some (some ⟨0#2, 0xFFFF0035#32⟩, []) := by decide
theorem test_has_event_count :
    after (run { inPd with evq := List.replicate 6 .stateChanged } 0x00000006#32) State.resp = some (some ⟨0#2, 1#32⟩) ∧
    after (run { inPd with evq := List.replicate 6 .stateChanged } 0x0000000B#32) State.resp = some (some ⟨0#2, 6#32⟩) := by
  decide
theorem test_push_overflow :
    ({ inPd with evq := List.replicate 6 .stateChanged }.push (.messageReceived 0x07A6#16 3#2 1)).evq
      = List.replicate 6 .stateChanged := by decide
theorem test_read_rx_byte :
    after (run { inPd with rxRing := [(0, 0x2C#8), (3, 0x08#8), (255, 0x44#8)] } 0x00000C0A#32) State.resp
      = some (some ⟨0#2, 0x08#32⟩) ∧
    after (run { inPd with rxRing := [(0, 0x2C#8), (3, 0x08#8), (255, 0x44#8)] } 0x0000FF0A#32) State.resp
      = some (some ⟨0#2, 0x44#32⟩) := by decide

/-! ## Initialisation and the attach state machine: 95 section 2.7 -/

theorem test_init_transactions :
    after (run (env inPd [] [0#32, 10#32] []) 0x00000001#32) State.trace = some
      [.write 0x0C#8 [0x03#8] 3, .delay 0#32 10#32, .write 0x0B#8 [0x07#8] 3, .write 0x0A#8 [0xFF#8] 3,
       .write 0x0E#8 [0xFF#8] 3, .write 0x0F#8 [0x01#8] 3] := by decide
theorem test_init_state :
    after (run (env { inPd with rxIdx := 3#2, nextMessageId := 6#3, evq := [.stateChanged] } [] [0#32, 10#32] []) 0x01#32)
      (fun t => (t.attach, t.rxIdx, t.nextMessageId, t.evq)) = some (.usb20, 0#2, 0#3, []) := by decide
theorem test_start_sink :
    after (run (env State.reset [] [1000#32] []) 0x00000002#32) (fun t => (t.measCc, t.timerActive, t.timerExp, t.trace))
      = some (some .cc1, true, 1010#32, [.write 0x02#8 [0x07#8] 3, .millis 1000#32]) := by decide
theorem test_get_state :
    ([(State.reset, 0#32), (pdWait, 1#32), (inPd, 2#32), (retryWait, 3#32)].all fun p =>
      after (run p.1 0x00000008#32) State.resp == some (some ⟨0#2, p.2⟩)) = true := by decide
theorem test_get_device_id :
    after (run (env State.reset [0x91#8] [] []) 0x00000009#32) (fun t => (t.resp, t.trace))
      = some (some ⟨0#2, 0x91#32⟩, [.read 0x01#8 [0x91#8] 3]) := by decide

/-- What a POLL leaves, and what it did. -/
structure Seen where
  attach : AttachState
  measCc : Option Cc
  timer  : Option Word
  evq    : List Event
  rxIdx  : BitVec 2
  did    : List Doing
deriving DecidableEq, Repr

/-- The attach state, the line, the timer if it runs, the queue, the index; the transactions, pulses and conditions. -/
def seen (t : State) : Seen where
  attach := t.attach
  measCc := t.measCc
  timer := if t.timerActive then some t.timerExp else none
  evq := t.evq
  rxIdx := t.rxIdx
  did := (doings t.trace).filter fun d => d.isTransaction || d.isCondition || d == .pulse

/-- What a POLL from a state leaves. -/
def pollSees (s : State) : Option Seen := after (run s 0x00000003#32) seen

/-- 95 section 2.7: one ms early; the flip to CC2; the entry into `UsbPdWait`; the expiry of the retry wait; `UsbPd` idle. -/
theorem test_poll_attach :
    pollSees (env measuring [] [1009#32] []) = some ⟨.usb20, some .cc1, some 1010#32, [], 0#2, []⟩ ∧
    pollSees (env measuring [0x00#8] [1010#32, 1010#32] [])
      = some ⟨.usb20, some .cc2, some 1020#32, [], 0#2, [.read 0x40#8 1, .write 0x02#8 [0x0B#8]]⟩ ∧
    pollSees (env measuring [0x82#8] [1010#32, 1010#32] [])
      = some ⟨.usbPdWait, none, some 1310#32, [], 0#2,
          [.read 0x40#8 1, .pulse, .write 0x09#8 [0x07#8], .write 0x0A#8 [0xAF#8], .write 0x0E#8 [0xEA#8],
           .write 0x0F#8 [0x00#8], .write 0x03#8 [0x25#8], .write 0x06#8 [0x00#8]]⟩ ∧
    pollSees (env pdWait [] [1310#32, 1310#32, 1320#32, 1320#32] [false])
      = some ⟨.usbRetryWait, none, some 1820#32, [.stateChanged], 0#2,
          [.raise .protocolTimeout, .write 0x0C#8 [0x03#8], .write 0x0B#8 [0x07#8], .write 0x0A#8 [0xFF#8],
           .write 0x0E#8 [0xFF#8], .write 0x0F#8 [0x01#8]]⟩ ∧
    pollSees (env retryWait [] [1820#32, 1820#32] [false])
      = some ⟨.usb20, some .cc1, some 1830#32, [], 0#2, [.write 0x02#8 [0x07#8]]⟩ ∧
    pollSees (env inPd [] [] [false]) = some ⟨.usbPd, none, none, [], 0#2, []⟩ := by decide

/-! ## The receive path: 95 section 2.6 and program P6 -/

/-- The three interrupt reads of R220. -/
def threeReads : List Doing := [.read 0x42#8 1, .read 0x3E#8 1, .read 0x3F#8 1]

/-- A drained frame: an accepted data frame, then RX_EMPTY; a non-SOP token; six of seven events kept (P6). -/
theorem test_poll_drain :
    pollSees (polled pdWait [dataFrame] [0x28#8])
      = some ⟨.usbPd, none, none, [.stateChanged, .messageReceived 0x1181#16 0#2 1], 1#2,
          threeReads ++ [.read 0x41#8 1, .read 0x43#8 3, .read 0x43#8 8, .read 0x40#8 1, .read 0x41#8 1]⟩ ∧
    pollSees (polled pdWait [] [0x08#8, 0xC0#8, 0x62#8, 0x00#8])
      = some ⟨.usbPdWait, none, some 1310#32, [], 0#2,
          threeReads ++ [.read 0x41#8 1, .read 0x43#8 3, .raise (.notSop 0xC0#8), .write 0x07#8 [0x04#8]]⟩ ∧
    (pollSees (polled { inPd with rxIdx := 2#2, evq := List.replicate 5 .stateChanged }
        [acceptFrame', { acceptFrame' with low := 0xA6#8, high := 0x07#8 }] [0x28#8])).map
        (fun v => (v.evq, v.rxIdx, v.did.getLast?, v.did.contains (.raise (.queueOverflow (.messageReceived 0x07A6#16 3#2 1)))))
      = some (List.replicate 5 .stateChanged ++ [.messageReceived 0x05A3#16 2#2 1], 0#2, some (.read 0x41#8 1), true) := by
  decide

/-- What an operation that may be stuck leaves. -/
def okSeen (r : Except Fault State) : Option Seen :=
  match r with
  | .ok t => some (seen t)
  | .error _ => none

/-- `handle_interrupts()`: I_HARDRST; I_RETRYFAIL; I_TXSENT with TX_EMPTY, then a drain that is empty at once. -/
theorem test_handle_interrupts :
    (okSeen (handleInterrupts (env pdWait [0x50#8, 0x01#8, 0x00#8] [1000#32, 1010#32, 1010#32] []))).map
        (fun v => (v.attach, v.timer, v.evq, v.did[3]?))
      = some (.usbRetryWait, some 1510#32, [.stateChanged], some (.raise .chipHardReset)) ∧
    okSeen (handleInterrupts (env pdWait [0x00#8, 0x10#8, 0x00#8] [] []))
      = some ⟨.usbPdWait, none, some 1310#32, [], 0#2, threeReads ++ [.raise .retryFail]⟩ ∧
    okSeen (handleInterrupts (env pdWait [0x40#8, 0x04#8, 0x00#8, 0x28#8, 0x28#8] [] []))
      = some ⟨.usbPdWait, none, some 1310#32, [], 0#2,
          threeReads ++ [.read 0x41#8 1, .write 0x0B#8 [0x07#8], .read 0x41#8 1]⟩ := by decide

/-- One frame of the drain loop: the bytes of the data frame in slot 0; GoodCRC; a clear CRC_CHK. -/
theorem test_deframe :
    (deframe (env pdWait (dataFrame.chip.drop 1) [] [])).2.rxRing
      = [(0, 0x2C#8), (1, 0x91#8), (2, 0x01#8), (3, 0x08#8), (4, 0x11#8), (5, 0x22#8), (6, 0x33#8), (7, 0x44#8)] ∧
    ((deframe (env pdWait (goodCrcFrame.chip.drop 1) [] [])).2.evq,
      (deframe (env pdWait (goodCrcFrame.chip.drop 1) [] [])).2.rxRing.map Prod.fst) = ([], [0, 1, 2, 3]) ∧
    (seen (deframe (env pdWait (badCrcFrame.chip.drop 1) [] [])).2)
      = ⟨.usbPdWait, none, some 1310#32, [], 0#2,
          [.read 0x43#8 3, .read 0x43#8 8, .read 0x40#8 1, .raise (.badCrc 0x1181#16)]⟩ := by decide

/-- Log 7: a lone SOP token is the head of a frame; a token outside the class flushes. -/
theorem test_rx_token :
    (after (step { env pdWait (dataFrame.chip.drop 2) [] [] with inbox := [.rxToken 0xE7#8] }) seen).map Seen.evq
      = some [.stateChanged, .messageReceived 0x1181#16 0#2 1] ∧
    (after (step { env pdWait [0x62#8, 0x00#8] [] [] with inbox := [.rxToken 0xC0#8] }) seen).map Seen.did
      = some [.read 0x43#8 3, .raise (.notSop 0xC0#8), .write 0x07#8 [0x04#8]] := by decide

/-! ## The transmit path: 95 section 2.5 -/

/-- The write transactions and the message ID after SEND_MESSAGE with a payload. -/
def sent (id : BitVec 3) (w : Word) (payload : List Byte) : Option (List Doing × BitVec 3) :=
  after (step { asked { inPd with nextMessageId := id } w with inbox := [.command w (portOf payload)] })
    fun t => (transactions t.trace, t.nextMessageId)

theorem test_send_message :
    sent 5#3 0x00104204#32 [0x2C#8, 0xB1#8, 0x04#8, 0x23#8] = some
      ([.write 0x0B#8 [0x0F#8],
        .write 0x43#8 [0x12#8, 0x12#8, 0x12#8, 0x13#8, 0x86#8, 0x42#8, 0x1A#8, 0x2C#8, 0xB1#8, 0x04#8, 0x23#8, 0xFF#8,
          0x14#8, 0xFE#8, 0xA1#8]], 6#3) := by decide
/-- Seven objects: 39 bytes, PACKSYM 0x9E; address 39 of `tx_buf` keeps its value. -/
theorem test_send_message_longest :
    after (step { asked { inPd with txBuf := [(39, 0x77#8)] } 0x00704104#32 with
        inbox := [.command 0x00704104#32 (portOf ((List.range 28).map (BitVec.ofNat 8)))] })
      (fun t => ((t.txBuf.map Prod.snd).take 9, (t.txBuf.map Prod.snd).drop 33, t.txPos))
      = some ([0x12#8, 0x12#8, 0x12#8, 0x13#8, 0x9E#8, 0x41#8, 0x70#8, 0x00#8, 0x01#8],
        [0x1A#8, 0x1B#8, 0xFF#8, 0x14#8, 0xFE#8, 0xA1#8, 0x77#8], 39) := by decide
theorem test_send_header_message :
    sent 7#3 0x00004D05#32 [] = some
      ([.write 0x0B#8 [0x0F#8],
        .write 0x43#8 [0x12#8, 0x12#8, 0x12#8, 0x13#8, 0x82#8, 0x4D#8, 0x0E#8, 0xFF#8, 0x14#8, 0xFE#8, 0xA1#8]], 0#3) := by
  decide
/-- Log 6: lone tokens build the start of a stream; the PACKSYM byte of six bytes is 0x86 (95 section 1.1). -/
theorem test_tokens_append :
    ([(0x12#8, 0x12#8), (0x13#8, 0x13#8), (0x86#8, 0x86#8), (0xFF#8, 0xFF#8), (0x14#8, 0x14#8), (0xFE#8, 0xFE#8),
      (0xA1#8, 0xA1#8)].all fun p =>
        after (step { inPd with txPos := 4, inbox := [.txToken p.1] }) (fun t => (t.txBuf, t.txPos))
          == some ([(4, p.2)], 5)) = true := by decide
/-- Log 9: `tx_buf` has 40 bytes. -/
theorem test_token_past_end :
    faultOf (step { inPd with txPos := 40, inbox := [.txToken 0x12#8] }) = some .txBufferEnd := by decide

/-! ## Timer: 95 section 2.8 -/

/-- `timer_expired()` at a sample. -/
def expiredAt (exp now : Word) : Bool :=
  { State.reset with timerActive := true, timerExp := exp, millisIn := ⟨[now], 0⟩ }.timerExpired

theorem test_timer_expired :
    expiredAt 1010#32 1010#32 = true ∧ expiredAt 1010#32 1009#32 = false ∧ expiredAt 0xFFFFFFF0#32 5#32 = true ∧
    expiredAt 0xFFFFFFF0#32 0xFFFFFFEF#32 = false ∧ expiredAt 1000#32 (1000#32 + 0x07FFFFFF#32) = true ∧
    expiredAt 1000#32 (1000#32 + 0x08000000#32) = false ∧ expiredAt 0#32 0x80000000#32 = false := by decide
theorem test_timer_start :
    ({ State.reset with millisIn := ⟨[0xFFFFFF00#32], 0⟩ }.timerStart 300#32).timerExp = 0x0000002C#32 := by decide

/-! ## The I2C master: R344 and 95 section 2.9 -/

theorem test_wire_write :
    ((env State.reset [] [] []).regWrite1 0x0C#8 0x03#8).wire
      = [.start, .sent 0x44#8 true, .sent 0x0C#8 true, .sent 0x03#8 true, .stop] := by decide
theorem test_wire_read :
    ((env State.reset [0xE0#8, 0x81#8, 0x11#8] [] []).regRead 0x43#8 3).wire
      = [.start, .sent 0x44#8 true, .sent 0x43#8 true, .restart, .sent 0x45#8 true, .received 0xE0#8 true,
         .received 0x81#8 true, .received 0x11#8 false, .stop] := by decide
theorem test_wire_nack :
    ({ State.reset with ackIn := ⟨[true, false], 0⟩ }.regWrite1 0x0B#8 0x0F#8).wire
      = [.start, .sent 0x44#8 true, .sent 0x0B#8 false, .stop] := by decide
/-- R340, R341: 0x44 goes out as 0100 0100, then the acknowledge, with the target stretching every clock by two phases. -/
theorem test_bits : sampledBits false (wave (fun _ _ => 2) [.sent 0x44#8 true])
    = [false, true, false, false, false, true, false, false, false] := by decide
/-- R397, R24: a draw short of the delay is read as its end, one in time is taken, the last of them 2^31 - 1 past a sample
9 ms after the entry. -/
theorem test_delay_exit : inTime 0xFFFFFFFC#32 10#32 0x00000005#32 = 0x00000006#32 ∧
    inTime 0xFFFFFFFC#32 10#32 0x00000006#32 = 0x00000006#32 ∧
    inTime 0#32 10#32 0x80000008#32 = 0x80000008#32 ∧ inTime 0#32 10#32 0x80000009#32 = 10#32 := by decide
/-- R64: the bytes its table gives. -/
theorem test_register_values :
    [vResetAll, vPowerNoOsc, vPowerAll, vMaskAll, vMaskaAll, vMaskbAll, vMaskPd, vMaskaPd, vMaskbPd, vSw0MeasCc1, vSw0MeasCc2,
      vSw1PdCc1, vSw1PdCc2, vCtrl3Pd, vCtrl0Pd, vCtrl1RxFlush]
      = [0x03#8, 0x07#8, 0x0F#8, 0xFF#8, 0xFF#8, 0x01#8, 0xAF#8, 0xEA#8, 0x00#8, 0x07#8, 0x0B#8, 0x25#8, 0x26#8, 0x07#8,
        0x00#8, 0x04#8] := by decide
/-- R361. -/
theorem test_condition_codes :
    [Condition.transientBusError 0x43#8 .read, .notSop 0xC0#8, .badCrc 0#16, .protocolTimeout, .chipHardReset,
      .queueOverflow .stateChanged, .retryFail].map Condition.code
      = [0x10#8, 0x11#8, 0x11#8, 0x12#8, 0x13#8, 0x14#8, 0x15#8] := by decide

/-! ## Witnesses: states and operands that meet the hypotheses of the statements, clause by clause -/

/-- A step or an instruction that goes on has a next state. -/
theorem goesOn_next {o : Host.Outcome State Fault Refusal} (h : goesOn o = true) : ∃ t, o = .next t := by
  cases o with
  | next t => exact ⟨t, rfl⟩
  | fault f => cases h
  | refused r => cases h

theorem witness_EncodeOfDecode :
    decode (.command 0x00004D05#32) = .ok (.sendHeaderMessage 0x0D#5 2#2) ∧ decode (.txToken 0x86#8) = .ok (.tokPacksym 6#5) ∧
    decode (.rxToken 0xE7#8) = .ok (.rxTokenSop 7#5) := ⟨rfl, rfl, rfl⟩

/-- A reserved opcode, the lowest reserved bit of format T, and the largest legal word of format T; a request to refuse. -/
theorem witness_IllegalCommandHasNoEffect :
    ¬ LegalWord 0x0000000C#32 ∧ ¬ LegalWord 0x00008005#32 ∧ LegalWord 0x00007F05#32 ∧
    (asked inPd 0x0000000C#32).inbox = [.command 0x0000000C#32 (Vector.replicate 28 0#8)] := by
  unfold LegalWord; decide

/-- Each illegal value, and a legal command that goes on. -/
theorem witness_IllegalOperandHasNoEffect :
    IllegalOperand (.sendHeaderMessage 31#5 0#2) ∧ IllegalOperand (.createCtrl 0#5 0#2) ∧
    IllegalOperand (.createData 0#5 7#3 0#2) ∧ IllegalOperand (.createData 0#5 0#3 3#2) ∧
    ((Instr.createData 31#5 1#3 1#2).isCommand = true ∧ ¬ IllegalOperand (.createData 31#5 1#3 1#2) ∧
      ∃ t, exec (.createData 31#5 1#3 1#2) State.reset = .next t) :=
  ⟨rfl, rfl, .inl rfl, .inr rfl, rfl, by unfold IllegalOperand; decide, goesOn_next (by decide)⟩

/-- A command word that ends, and each command that answers `(0, 0)`. -/
theorem witness_EveryCommandResponds :
    ((asked inPd 0x0000000C#32).inbox = [.command 0x0000000C#32 (Vector.replicate 28 0#8)] ∧
      ∃ t, step (asked inPd 0x0000000C#32) = .next t) ∧
    (∃ t, exec .init State.reset = .next t) ∧ (∃ t, exec .startSink State.reset = .next t) ∧
    (∃ t, exec .poll State.reset = .next t) ∧ (∃ t, exec (.sendMessage 0x7041#16) State.reset = .next t) ∧
    (∃ t, exec (.sendHeaderMessage 0x0D#5 1#2) State.reset = .next t) :=
  ⟨⟨rfl, goesOn_next (by decide)⟩, goesOn_next (by decide), goesOn_next (by decide), goesOn_next (by decide),
    goesOn_next (by decide), goesOn_next (by decide)⟩

/-- A request of each port that decodes, and no request. -/
theorem witness_StepRunsDecodedInstruction :
    ((asked inPd 3#32).inbox = [.command 3#32 (Vector.replicate 28 0#8)] ∧ decode (.command 3#32) = .ok .poll) ∧
    ({ inPd with inbox := [.txToken 0x12#8] }.inbox = [.txToken 0x12#8] ∧ decode (.txToken 0x12#8) = .ok .tokSop1) ∧
    ({ inPd with inbox := [.rxToken 0xE0#8] }.inbox = [.rxToken 0xE0#8] ∧ decode (.rxToken 0xE0#8) = .ok (.rxTokenSop 0#5)) ∧
    State.reset.inbox = [] := ⟨⟨rfl, rfl⟩, ⟨rfl, rfl⟩, ⟨rfl, rfl⟩, rfl⟩

theorem witness_CodecCommandsArePure : isCodec (.hdrPowerRole 0xFFFF#16) = true := by decide

/-- A word with the opcode of each command and its lowest reserved bit: the premises of every `ReservedRefused`. -/
theorem witness_ReservedRefused :
    (commandRows.all fun r =>
      let lowest := r.2 &&& (0#32 - r.2)
      (r.1.setWidth 32 ||| lowest).extractLsb' 0 8 == r.1 && (r.1.setWidth 32 ||| lowest) &&& r.2 != 0#32) = true := by decide

/-- Revision 0, revisions 1 and 3; count 0, counts 1 and 7. -/
theorem witness_CreateResults :
    (0#2 = (0#2 : BitVec 2)) ∧ (1#2 : BitVec 2) ≠ 0#2 ∧ (3#2 : BitVec 2) ≠ 0#2 ∧ (1#3 : BitVec 3) ≠ 0#3 ∧
    (7#3 : BitVec 3) ≠ 0#3 := by decide

/-- An empty queue, a full one, and either event in front. -/
theorem witness_QueueResults :
    State.reset.evq = [] ∧ { inPd with evq := List.replicate 6 .stateChanged }.evq ≠ [] ∧
    { inPd with evq := [.stateChanged] }.evq = [.stateChanged] ∧
    { inPd with evq := [.messageReceived 0xFFFF#16 3#2 1] }.evq = [.messageReceived 0xFFFF#16 3#2 1] := by decide

/-- A run of the queue from empty with five pushes and seven POP_EVENTs among them, and one whose seventh push in a row finds six:
what is asked, what comes out, what the queue accepts. -/
theorem witness_QueueKeepsOrder :
    let e := Event.stateChanged
    let m := Event.messageReceived 0x1181#16 3#2 1
    let ops : List QueueOp := [.push m, .push e, .pop, .pop, .pop, .push e, .push m, .pop, .push e, .pop, .pop, .pop]
    (State.reset.evq = [] ∧ (ops.filterMap QueueOp.pushed).length ≤ 6 ∧ ops.countP QueueOp.isPop = 7) ∧
    (queueRun ops State.reset).1.map (Option.map fun r => r.value.toNat)
      = [some 0x11810035, some 3, some 0, some 3, some 0x11810035, some 3, some 0] ∧
    acceptedPushes ((List.replicate 6 (.push e)) ++ [.push m, .pop, .push e]) 0 = List.replicate 7 e := by decide

/-- A queue with room for one more, and a full one. -/
theorem witness_PushEnqueuesOrDrops :
    { inPd with evq := List.replicate 5 .stateChanged }.evq.length ≠ 6 ∧
    { inPd with evq := List.replicate 6 .stateChanged }.evq.length = 6 := by decide

/-- The last byte of the ring written, and nothing written. -/
theorem witness_ReadRxByteResult :
    { inPd with rxRing := [(255, 0x44#8)] }.rxRing.read (64 * (3#2 : BitVec 2).toNat + (63#6 : BitVec 6).toNat) = some 0x44#8 ∧
    State.reset.rxRing.read (64 * (3#2 : BitVec 2).toNat + (63#6 : BitVec 6).toNat) = none := by decide

theorem witness_GetStateResult :
    State.reset.attach = .usb20 ∧ pdWait.attach = .usbPdWait ∧ inPd.attach = .usbPd ∧ retryWait.attach = .usbRetryWait := by
  decide

/-- A step that stores a frame in slot 0 and leaves slot 1, with handles that run no further than their slots, and a pop. -/
theorem witness_SlotBytesStandWhileGenerationStands :
    (∃ t, step (asked (polled pdWait [dataFrame] [0x28#8]) 0x00000003#32) = .next t) ∧
    after (run (polled pdWait [dataFrame] [0x28#8]) 0x00000003#32) (fun t => (t.generation 0#2, t.generation 1#2))
      = some (1, 0) ∧
    HandlesInv { inPd with evq := [.messageReceived 0x1181#16 0#2 1], slotGen := Vector.replicate 4 1 } ∧
    (∃ t, step (asked { inPd with evq := [.messageReceived 0x1181#16 0#2 1] } 0x00000007#32) = .next t) :=
  ⟨goesOn_next (by decide), by decide, by rintro h k g m; cases List.mem_singleton.mp m; decide, goesOn_next (by decide)⟩

/-- A chip that acknowledges, with no clock hold to come: INIT, START_SINK, GET_DEVICE_ID, SEND_MESSAGE. -/
theorem witness_commands_without_hold :
    (env inPd [] [] []).sclHold = none ∧ AllAcked 55 (env inPd [] [] []) := by unfold AllAcked; decide

/-- The TX-sent power-down with TX_EMPTY set, and with it clear. -/
theorem witness_ChipRegistersAfterCommands :
    (AllAcked 6 (env inPd [0x08#8] [] []) ∧ ((env inPd [0x08#8] [] []).chipByte 0).toNat / 8 % 2 = 1) ∧
    ((env inPd [0xF7#8] [] []).chipByte 0).toNat / 8 % 2 = 0 := by unfold AllAcked; decide

/-- In `Usb20` one ms early; in `UsbPdWait` with INT_N high; in `UsbPd` with INT_N high and a running timer. -/
theorem witness_PollWithNothingToDo :
    (measuring.attach = .usb20 ∧ ¬ Expired (env measuring [] [1009#32] [])) ∧
    ((env pdWait [] [1309#32] [false]).intNLow = false ∧ ¬ Expired (env pdWait [] [1309#32] [false])) ∧
    ((env inPd [] [] [false]).intNLow = false ∧ inPd.attach = .usbPd) := by unfold Expired; decide

/-- Either line, at the first and the last sample of the window, without and with a level. -/
theorem witness_PollMeasures :
    (measuring.attach = .usb20 ∧ measuring.measCc = some .cc1 ∧ Expired (env measuring [0xFC#8] [1010#32] []) ∧
      ((env measuring [0xFC#8] [1010#32] []).chipByte 0).toNat % 4 = 0 ∧ measuring.sclHold = none) ∧
    ({ measuring with measCc := some .cc2 }.measCc = some .cc2 ∧
      Expired (env measuring [0x03#8] [1010#32 + 0x07FFFFFF#32] []) ∧
      ((env measuring [0x03#8] [1010#32] []).chipByte 0).toNat % 4 ≠ 0 ∧ AllAcked 21 (env measuring [] [] [])) := by
  unfold Expired AllAcked; decide

/-- INT_N high and the timer expired, in `UsbPdWait` and in `UsbRetryWait`. -/
theorem witness_PollTimeouts :
    (pdWait.attach = .usbPdWait ∧ (env pdWait [] [1310#32] [false]).intNLow = false ∧ Expired (env pdWait [] [1310#32] [false]) ∧
      pdWait.sclHold = none) ∧
    (retryWait.attach = .usbRetryWait ∧ (env retryWait [] [1820#32] [false]).intNLow = false ∧
      Expired (env retryWait [] [1820#32] [false]) ∧ retryWait.sclHold = none) := by unfold Expired; decide

/-- INT_N low with I_HARDRST in each state but `Usb20`. -/
theorem witness_PollHardReset :
    ([pdWait, inPd, retryWait].all fun s =>
      s.attach != .usb20 && (env s [0x50#8, 0x01#8] [] [true]).intNLow &&
        ((env s [0x50#8, 0x01#8] [] [true]).chipByte 1).toNat % 2 == 1) = true := by decide

/-- INT_N low, no hard reset, no drain trigger, with every other interrupt bit set, TX_EMPTY either way. -/
theorem witness_InterruptWithoutDrain :
    let s := env pdWait [0xAF#8, 0xFE#8, 0xFE#8, 0x08#8] [] [true]
    s.attach ≠ .usb20 ∧ s.intNLow = true ∧ (s.chipByte 1).toNat % 2 = 0 ∧ (s.chipByte 0).toNat / 64 % 2 = 0 ∧
    (s.chipByte 0).toNat / 16 % 2 = 0 ∧ (s.chipByte 2).toNat % 2 = 0 ∧ s.sclHold = none := by decide

/-- A command of each clause that goes on. -/
theorem witness_AttachMovesOnlyIn :
    (∃ t, exec .popEvent State.reset = .next t) ∧ (∃ t, exec .startSink State.reset = .next t) ∧
    (∃ t, exec .init State.reset = .next t) ∧ Instr.popEvent.isCommand = true :=
  ⟨goesOn_next (by decide), goesOn_next (by decide), goesOn_next (by decide), rfl⟩

/-- Each move of the table takes place: a POLL that ends in each state from each state that can reach it. -/
theorem witness_PollTransitions :
    ([(env measuring [] [1009#32] [], AttachState.usb20), (env measuring [0x01#8] [1010#32, 1010#32] [], .usbPdWait),
      (env pdWait [] [1309#32] [false], .usbPdWait),
      (env pdWait [] [1310#32, 1310#32, 1320#32, 1320#32] [false], .usbRetryWait), (polled pdWait [dataFrame] [0x28#8], .usbPd),
      (env inPd [] [] [false], .usbPd), (env inPd [0#8, 1#8, 0#8] [0#32, 10#32, 10#32] [true], .usbRetryWait),
      (env retryWait [] [1819#32] [false], .usbRetryWait), (env retryWait [] [1820#32, 1820#32] [false], .usb20),
      (polled retryWait [dataFrame] [0x28#8], .usbPd)].all fun p => (pollSees p.1).map Seen.attach == some p.2) = true := by
  decide

/-- A drain of no frame, of one accepted frame into a queue with one place, and of several, with and without I_TXSENT. -/
theorem witness_DrainFollowsFrames :
    DrainPoll (polled pdWait [] [0x28#8]) 0x50#8 0x00#8 0x01#8 [] [] [0x28#8] [] ∧
    DrainPoll (polled { inPd with evq := List.replicate 5 .stateChanged } [dataFrame, goodCrcFrame, badCrcFrame] [0x28#8])
      0x50#8 0x00#8 0x01#8 [] [dataFrame, goodCrcFrame, badCrcFrame] [0x28#8] [] ∧
    DrainPoll (env pdWait ([0x40#8, 0x14#8, 0x00#8, 0x08#8] ++ acceptFrame'.chip ++ [0x28#8]) [] [true])
      0x40#8 0x14#8 0x00#8 [0x08#8] [acceptFrame'] [0x28#8] [] ∧
    DrainPoll (polled inPd [dataFrame, badCrcFrame] [0x08#8, 0xC0#8, 0x62#8, 0x00#8]) 0x50#8 0x00#8 0x01#8 []
      [dataFrame, badCrcFrame] [0x08#8, 0xC0#8, 0x62#8, 0x00#8] [] := by unfold DrainPoll; decide

/-- Both ends of a drain. -/
theorem witness_DrainEnds :
    DrainEnds [0x28#8] [.read 0x41#8 1] [] ∧
    DrainEnds [0x08#8, 0xC0#8, 0x62#8, 0x00#8] [.read 0x41#8 1, .read 0x43#8 3, .write 0x07#8 [0x04#8]]
      [.raise (.notSop 0xC0#8)] :=
  ⟨.inl ⟨0x28#8, by decide⟩, .inr ⟨0x08#8, 0xC0#8, 0x62#8, 0x00#8, by decide⟩⟩

/-- A non-SOP token after an accepted frame. -/
theorem witness_NonSopEndsDrain :
    DrainPoll (polled pdWait [dataFrame] [0x08#8, 0xC0#8, 0x62#8, 0x00#8]) 0x50#8 0x00#8 0x01#8 [] [dataFrame]
      [0x08#8, 0xC0#8, 0x62#8, 0x00#8] [] ∧
    (0x08#8 : Byte).toNat / 32 % 2 = 0 ∧ (0xDF#8 : Byte).toNat / 32 ≠ 7 ∧ (0xC0#8 : Byte).toNat / 32 ≠ 7 := by
  unfold DrainPoll; decide

/-- A frame that CRC_CHK discards and one that the GoodCRC filter discards. -/
theorem witness_DiscardedFrame :
    (DrainPoll (polled pdWait [badCrcFrame] [0x28#8]) 0x50#8 0x00#8 0x01#8 [] [badCrcFrame] [0x28#8] [] ∧
      badCrcFrame.accepted = false) ∧
    (DrainPoll (polled pdWait [goodCrcFrame] [0x28#8]) 0x50#8 0x00#8 0x01#8 [] [goodCrcFrame] [0x28#8] [] ∧
      goodCrcFrame.accepted = false) := by unfold DrainPoll; decide

/-- An accepted frame outside `UsbPd`, and one in `UsbPd` with a full queue and the last slot. -/
theorem witness_AcceptedFrame :
    (DrainPoll (polled pdWait [dataFrame] [0x28#8]) 0x50#8 0x00#8 0x01#8 [] [dataFrame] [0x28#8] [] ∧
      dataFrame.accepted = true) ∧
    (DrainPoll (polled { inPd with rxIdx := 3#2, evq := List.replicate 6 .stateChanged } [acceptFrame'] [0x28#8])
        0x50#8 0x00#8 0x01#8 [] [acceptFrame'] [0x28#8] [] ∧ acceptFrame'.accepted = true) := by unfold DrainPoll; decide

theorem witness_TimerExpiryWindow : State.reset.timerActive = false ∧ measuring.timerActive = true := by decide

/-- Samples at the start and the end of the window, and one before it. -/
theorem witness_StartedTimerExpires :
    let s := env State.reset [] [0xFFFFFF00#32] []
    let armed := s.timerStart 300#32
    let passed (u : State) := (u.millisNow.toNat + 2 ^ 32 - s.millisNow.toNat) % 2 ^ 32
    (300#32 : Word).toNat < 2 ^ 31 ∧
    passed { armed with millisIn := ⟨[0x0000002C#32], 0⟩ } = 300 ∧
    passed { armed with millisIn := ⟨[0x0800002B#32], 0⟩ } = 300 + 2 ^ 27 - 1 ∧
    passed { armed with millisIn := ⟨[0x0000002B#32], 0⟩ } = 299 := by decide

/-- A sample after another, at the largest distance R24 allows; a delay whose exit draw is the first in time, and one whose exit
draw is the last R24 allows, after a sample 9 ms past the entry. -/
theorem witness_SamplesKeepTheCounterRules :
    ({ env State.reset [] [0x8000000F#32] [] with lastMillis := some 0x10#32 }.lastMillis = some 0x10#32 ∧
      ((env State.reset [] [0x8000000F#32] []).millisIn.value Config.freeMillis - 0x10#32).toNat < 2 ^ 31) ∧
    (0 < (10#32 : Word).toNat ∧ (10#32 : Word).toNat < 2 ^ 31) ∧
    DelayMayEnd 10#32 (env State.reset [] [5#32, 15#32] []).millisNow
      ((env State.reset [] [5#32, 15#32] []).millisIn.next.value Config.freeMillis) ∧
    DelayMayEnd 10#32 (env State.reset [] [5#32, 0x8000000D#32] []).millisNow
      ((env State.reset [] [5#32, 0x8000000D#32] []).millisIn.next.value Config.freeMillis) :=
  ⟨by decide, by decide, ⟨by decide, 5#32, by decide⟩, ⟨by decide, 14#32, by decide⟩⟩

/-- Revision 0 and a legal revision; headers with ID bits 0 after INIT. -/
theorem witness_Transmit :
    ((0#2 : BitVec 2) = 0#2 ∧ (3#2 : BitVec 2) ≠ 0#2) ∧
    (∃ t, State.reset.sclHold = none ∧ exec .init State.reset = .next t) ∧
    (∀ h ∈ [0x1042#16, 0x0041#16, 0xF1FF#16], (h : Header).toNat / 512 % 8 = 0) := by
  obtain ⟨t, h⟩ := goesOn_next (o := exec .init State.reset) (by decide)
  exact ⟨by decide, ⟨t, rfl, h⟩, by simp⟩

/-- A command of each clause that goes on: INIT, SEND_MESSAGE, POLL, POP_EVENT. -/
theorem witness_MessageIdMoves :
    (∃ t, exec .init inPd = .next t) ∧ (∃ t, exec (.sendMessage 0x1042#16) inPd = .next t) ∧
    (∃ t, exec (.sendHeaderMessage 0x0D#5 2#2) inPd = .next t) ∧ (∃ t, exec .poll State.reset = .next t) ∧
    (∃ t, exec .popEvent inPd = .next t) :=
  ⟨goesOn_next (by decide), goesOn_next (by decide), goesOn_next (by decide), goesOn_next (by decide),
    goesOn_next (by decide)⟩

/-- The last place of `tx_buf`, and one past it. -/
theorem witness_TokensAppend : { inPd with txPos := 39 }.txPos < 40 ∧ 40 ≤ { inPd with txPos := 40 }.txPos := by decide

/-- The data frame without its STATUS1 byte and its token, presented as token 0xE7. -/
theorem witness_FrameTokenReceives :
    let s := env pdWait (dataFrame.chip.drop 2) [] []
    let f := { dataFrame with token := 0xE7#8 }
    s.sclHold = none ∧ s.evq.length ≤ 6 ∧ f.sop = true ∧ f.token.toNat = 224 + (7#5 : BitVec 5).toNat ∧
    Input.values Config.freeChipByte (f.body.length + 4) ⟨f.token :: s.chipIn.pending, s.chipIn.taken⟩
      = f.token :: f.low :: f.high :: f.body ++ [f.status0] := by decide

/-- An idle bus and a chip that acknowledges; data for a read. -/
theorem witness_Transactions :
    State.reset.lines = Lines.idle ∧ AllAcked (39 + 2) (env State.reset [] [] []) ∧ AllAcked 3 (env State.reset [] [] []) ∧
    Input.values Config.freeChipByte ([0xE0#8, 0x81#8].length + 1) (env State.reset [0xE0#8, 0x81#8, 0x11#8] [] []).chipIn
      = [0xE0#8, 0x81#8] ++ [0x11#8] := by unfold AllAcked; decide

/-- The first byte, the last byte of a read's three, the data byte of a write, and the second data byte of a write
unacknowledged; an instruction and a step that go on, the step that of a frame token that is no SOP token. -/
theorem witness_NackAbandonsTransaction :
    NackAt 0 { State.reset with ackIn := ⟨[false], 0⟩ } ∧ NackAt 1 { State.reset with ackIn := ⟨[true, false], 0⟩ } ∧
    NackAt 2 { State.reset with ackIn := ⟨[true, true, false], 0⟩ } ∧ 2 < [0x0F#8].length + 2 ∧ 2 < 3 ∧
    NackAt 3 { State.reset with ackIn := ⟨[true, true, true, false], 0⟩ } ∧ 3 < [0x12#8, 0x13#8].length + 2 ∧
    (∃ t, exec .init { State.reset with ackIn := ⟨[true, false], 0⟩ } = .next t) ∧
    { inPd with inbox := [.rxToken 0xC0#8] }.inbox ≠ [] ∧
    ∃ t, step { inPd with inbox := [.rxToken 0xC0#8], ackIn := ⟨[true, false], 0⟩ } = .next t := by
  refine ⟨?_, ?_, ?_, ?_, ?_, ?_, ?_, goesOn_next (by decide), ?_, goesOn_next (by decide)⟩ <;>
    first | decide | (unfold NackAt; decide)

/-- What a write leaves in the model's record of the chip when its second data byte is not acknowledged: the first. -/
theorem test_nack_record :
    ({ State.reset with ackIn := ⟨[true, true, true, false], 0⟩ }.regWrite 0x0B#8 [0x07#8, 0x0F#8]).chipRegs.read 0x0B
      = some 0x07#8 := by decide

/-- INIT, START_SINK and the longest SEND_MESSAGE go on with every byte acknowledged. -/
theorem witness_BusByteCounts :
    AllAcked (16 + 4 * ((0x7041#16 : Header).toNat / 4096 % 8)) (env inPd [] [] []) ∧
    AllAcked 15 (env inPd [] [] []) ∧ AllAcked 3 (env inPd [] [] []) ∧
    (∃ t, exec .init (env inPd [] [] []) = .next t) ∧ (∃ t, exec .startSink (env inPd [] [] []) = .next t) ∧
    (∃ t, exec (.sendMessage 0x7041#16) (env inPd [] [] []) = .next t) :=
  ⟨by unfold AllAcked; decide, by unfold AllAcked; decide, by unfold AllAcked; decide, goesOn_next (by decide),
    goesOn_next (by decide), goesOn_next (by decide)⟩

/-- GET_DEVICE_ID has four bus bytes: with four to go it completes, with three it never ends. -/
theorem witness_HeldClockStalls :
    (∃ t, (env inPd [0x91#8] [] []).sclHold = none ∧ exec .getDeviceId (env inPd [0x91#8] [] []) = .next t) ∧
    after (exec .getDeviceId { env inPd [0x91#8] [] [] with sclHold := some 4 }) State.sclHold = some (some 0) ∧
    faultOf (exec .getDeviceId { env inPd [0x91#8] [] [] with sclHold := some 3 }) = some .sclHeldLow := by
  obtain ⟨t, h⟩ := goesOn_next (o := exec .getDeviceId (env inPd [0x91#8] [] [])) (by decide)
  exact ⟨⟨t, rfl, h⟩, by decide, by decide⟩

/-- States that meet the invariants, away from reset, and take a step. -/
theorem witness_InvariantsKept :
    let s := asked (polled pdWait [dataFrame] [0x28#8]) 0x00000003#32
    let m := asked (env measuring [0x00#8] [1010#32, 1010#32] []) 0x00000003#32
    (AttachInv s ∧ NoFrameTokenInUsb20 s ∧ ∃ t, step s = .next t) ∧ (LineInv m ∧ ∃ t, step m = .next t) ∧
    (StorageInv { s with rxRing := [(0, 1#8), (255, 2#8)], txBuf := [(39, 3#8)], txPos := 40 } ∧
      ∃ t, step { s with rxRing := [(0, 1#8), (255, 2#8)], txBuf := [(39, 3#8)], txPos := 40 } = .next t) := by
  refine ⟨⟨by decide, fun b rest h => ?_, goesOn_next (by decide)⟩, ⟨by decide, goesOn_next (by decide)⟩, by decide,
    goesOn_next (by decide)⟩
  cases h

theorem witness_TxBufIsNotObservable :
    SameButTxBuf inPd { inPd with txBuf := [(0, 0x12#8)], txPos := 1 } ∧ (Instr.sendMessage 0x7041#16).isCommand = true :=
  ⟨rfl, rfl⟩

end Sys2Proof.Tests
end

section
/-! Scope (00_scope.md section 7): what a step runs, and what the samples of the counter keep. -/

namespace Sys2Proof.Proofs

open Sys2Proof.Machine Sys2Proof.Statements

/-- With no request the block waits (R392). -/
theorem step_of_inbox_nil {s : State} (h : s.inbox = []) : step s = .next s := by
  simp only [step, h]

/-- A request that decodes is taken off the inbox and its instruction run (R22). -/
theorem step_of_decode {s : State} {r : Request} {rest : List Request} {i : Instr} (h : s.inbox = r :: rest)
    (hd : decode r.fetch = .ok i) : step s = exec i (s.take r rest) := by
  simp only [step, h, hd]

/-- Settles O8: `step_of_decode` at each port, where `State.take` is by definition the state the statement writes out. -/
theorem stepRunsDecodedInstruction : Obligations.StepRunsDecodedInstruction :=
  ⟨fun _ _ _ _ _ h hd => step_of_decode h hd, fun _ _ _ _ h hd => step_of_decode h hd,
    fun _ _ _ _ h hd => step_of_decode h hd, fun _ h => step_of_inbox_nil h⟩

/-- After a first sample the next one is the draw read past the last sample (R24, log 2). -/
theorem millisNow_of_lastMillis {s : State} {t : Word} (h : s.lastMillis = some t) :
    s.millisNow = laterThan t (s.millisIn.value Config.freeMillis) := by
  simp only [State.millisNow, h]

/-- Where a delay may end, without the sample in between: the latest sample that falls short of `ms` is `ms - 1` past the
entry, so the exit is `ms` to `ms + 2^31 - 2` past it (R397, R24). -/
theorem delayMayEnd_iff {ms entry exit : Word} (hpos : 0 < ms.toNat) (hlt : ms.toNat < 2 ^ 31) :
    DelayMayEnd ms entry exit ↔
      ms.toNat ≤ (exit - entry).toNat ∧ (exit - entry).toNat < ms.toNat + (2 ^ 31 - 1) := by
  constructor
  · rintro ⟨hms, before, hshort, hnext⟩
    exact ⟨hms, by bv_omega⟩
  · rintro ⟨hms, hbound⟩
    exact ⟨hms, entry + (ms - 1#32), by bv_omega, by bv_omega⟩

/-- Settles O42: `laterThan` gives the samples' constraint, and `inTime` the range of `delayMayEnd_iff`. -/
theorem samplesKeepTheCounterRules : Obligations.SamplesKeepTheCounterRules := by
  refine ⟨fun s t0 h => ?_, fun s => by simp, fun s ms hpos hlt => ?_⟩
  · rw [millisNow_of_lastMillis h]
    exact ⟨laterThan_sub t0 _ ▸ Nat.mod_lt _ (by decide), laterThan_eq⟩
  · refine ⟨s.delayExit ms, by simp, by simp, (delayMayEnd_iff hpos hlt).2 (inTime_sub _ _ _ hlt), fun h => ?_⟩
    obtain ⟨hms, hbound⟩ := (delayMayEnd_iff hpos hlt).1 h
    exact inTime_eq hms hbound

end Sys2Proof.Proofs
end

section
/-! State (10_state.md sections 2 and 3): `tx_buf` is written and never read back; the attach invariants stand after every
step. -/

namespace Sys2Proof.Proofs

open Sys2Proof.Machine Sys2Proof.Statements

/-! ## The TX scratch buffer -/

/-- States that differ in `tx_buf` and the place in it are one state with those two fields replaced. -/
theorem eq_hidden_of_sameButTxBuf {s s' : State} (h : SameButTxBuf s s') :
    s' = s.hidden s'.txBuf s'.txPos s.sclHold := h

/-- A response does not look at the replaced fields. -/
theorem respondOk_hiddenOr (b : Memory) (p : Nat) (x : Option Nat) (r : Except Fault State) :
    respondOk (hiddenOr b p x r) = hiddenOr b p x (respondOk r) := by
  cases r <;> rfl

/-- SEND_MESSAGE overwrites the place it is given and reads back only its own stream (R252): `tx_buf` alone can differ. -/
theorem sendMessageBody_hidden (header : Header) (payload : List Byte) (s : State) (b : Memory) (p : Nat)
    (x : Option Nat) (hp : payload.length = payloadLength header) :
    ∃ b' p', sendMessageBody header payload (s.hidden b p x) = (sendMessageBody header payload s).hidden b' p' x := by
  rw [sendMessageBody_eq _ _ _ hp, sendMessageBody_eq _ _ _ hp]
  exact ⟨_, _, rfl⟩

/-- No command's body reads `tx_buf`, the place in it or the clock hold (R39). -/
theorem body_hidden {i : Instr} (hi : i.isCommand = true) (s : State) (b : Memory) (p : Nat) (x : Option Nat) :
    ∃ b' p', body i (s.hidden b p x) = hiddenOr b' p' x (body i s) := by
  cases i with
  | init =>
    refine ⟨b, p, ?_⟩
    simp only [body, hidden_begin, hidden_initBody, hidden_respond]
    rfl
  | startSink =>
    refine ⟨b, p, ?_⟩
    simp only [body, hidden_begin, hidden_startSinkBody, hidden_respond]
    rfl
  | poll =>
    refine ⟨b, p, ?_⟩
    simp only [body, hidden_begin, hidden_pollBody, respondOk_hiddenOr]
  | sendMessage header =>
    obtain ⟨b', p', e⟩ := sendMessageBody_hidden header (payloadOperand header s.payloadPort) s.begin b p x
      (payloadOperand_length header s.payloadPort)
    refine ⟨b', p', ?_⟩
    simp only [body, hidden_begin, hidden_payloadPort, e, hidden_respond]
    rfl
  | sendHeaderMessage type rev =>
    obtain ⟨b', p', e⟩ := sendMessageBody_hidden (createCtrl type rev) [] s.begin b p x
      (createCtrl_payloadLength type rev).symm
    simp only [body, hidden_begin, e, hidden_respond]
    split
    · exact ⟨b', p', rfl⟩
    · exact ⟨b, p, rfl⟩
  | popEvent =>
    refine ⟨b, p, ?_⟩
    simp only [body, hidden_evq]
    cases s.evq <;> rfl
  | createCtrl type rev =>
    refine ⟨b, p, ?_⟩
    simp only [body]
    split <;> rfl
  | createData type n rev =>
    refine ⟨b, p, ?_⟩
    simp only [body]
    split <;> rfl
  | tokSop1 | tokSop2 | tokPacksym | tokJamCrc | tokEop | tokTxoff | tokTxon | rxTokenSop => cases hi
  | _ => exact ⟨b, p, rfl⟩

/-- No command's body moves the clock hold: by `body_hidden` it neither reads nor writes it. -/
theorem body_sclHold {i : Instr} {s u : State} (hi : i.isCommand = true) (h : body i s = .ok u) :
    u.sclHold = s.sclHold := by
  obtain ⟨b, p, hb⟩ := body_hidden hi s s.txBuf s.txPos s.sclHold
  have e : Except.ok u = hiddenOr b p s.sclHold (Except.ok u) := by
    rw [← h]; exact hb
  injection e with e
  rw [e]
  rfl

/-- The end of a step looks at the replaced fields no more than its body does (R341). -/
theorem complete_sameOutcome {s s' u u' : State} (hs : SameButTxBuf s s') (hu : SameButTxBuf u u') :
    SameOutcome (complete s u) (complete s' u') := by
  rw [hs, hu]
  unfold complete
  dsimp only
  split
  · rfl
  · split <;> rfl

/-- Settles O60: the two bodies reach states that differ only in `tx_buf` (`body_hidden`), and the clock treats them alike. -/
theorem txBufIsNotObservable : Obligations.TxBufIsNotObservable := by
  intro i s s' hi hs
  have hbody := body_hidden hi s s'.txBuf s'.txPos s.sclHold
  rw [← eq_hidden_of_sameButTxBuf hs] at hbody
  obtain ⟨b, p, hb⟩ := hbody
  rw [exec_eq, exec_eq, hb]
  cases hr : body i s with
  | error f => rfl
  | ok u =>
    refine complete_sameOutcome hs ?_
    rw [← body_sclHold hi hr]
    rfl

/-! ## The attach invariants -/

/-- The invariants look at four fields; the rules of the state's updates say that an update leaves them alone. -/
theorem attachInv_congr {s t : State} (hs : AttachInv s) (ha : t.attach = s.attach := by simp)
    (hm : t.measCc = s.measCc := by simp) (ht : t.timerActive = s.timerActive := by simp)
    (hq : t.evq = s.evq := by simp) : AttachInv t := by
  unfold AttachInv
  rw [ha, hm, ht, hq]
  exact hs

/-- The bring-up's end meets the invariants from any state: nothing measured, no timer, no event (R182). -/
theorem initBody_attachInv (s : State) : AttachInv (initBody s) := by simp [AttachInv]

/-- In `Usb20` only the queue is bound (R41). -/
theorem attachInv_of_usb20 {s : State} (ha : s.attach = .usb20) (hq : s.evq.length ≤ Config.queueDepth) :
    AttachInv s := by
  simp [AttachInv, ha, hq]

/-- A wait with the timer running, no line measured and a queue that fits (R194, R196). -/
theorem attachInv_of_wait {s : State} (ha : s.attach = .usbPdWait ∨ s.attach = .usbRetryWait) (hm : s.measCc = none)
    (ht : s.timerActive = true) (hq : s.evq.length ≤ Config.queueDepth) : AttachInv s := by
  refine ⟨fun h => absurd hm h, fun h => ?_, fun _ => ht, hq⟩
  rcases ha with ha | ha <;> rw [h] at ha <;> cases ha

theorem startSinkBody_attachInv {s : State} (hs : AttachInv s) : AttachInv (startSinkBody s) := by
  obtain ⟨-, -, -, hq⟩ := hs
  exact attachInv_of_usb20 (by simp [startSinkBody]) (by simpa [startSinkBody] using hq)

theorem enterRetryWait_attachInv (s : State) : AttachInv (enterRetryWait s) :=
  attachInv_of_wait (.inr (by simp)) (by simp) (by simp) (by simp [Config.queueDepth])

/-- Outside `Usb20` no line is measured (R41). -/
theorem measCc_eq_none {s : State} (hs : AttachInv s) (ha : s.attach ≠ .usb20) : s.measCc = none := by
  obtain ⟨hline, -⟩ := hs
  cases hm : s.measCc with
  | none => rfl
  | some c => exact absurd (hline (by rw [hm]; exact Option.some_ne_none c)) ha

/-- An accepted frame enters or stays in `UsbPd`; the timer is off either way, and a full queue drops (R231, R232). -/
theorem acceptFrame_attachInv (h : Header) {s : State} (hs : AttachInv s) (ha : s.attach ≠ .usb20) :
    AttachInv (acceptFrame h s) := by
  have hm := measCc_eq_none hs ha
  obtain ⟨-, htimer, -, hq⟩ := hs
  refine ⟨by simp [hm], fun _ => ?_, by simp, acceptFrame_length h s hq⟩
  by_cases hp : s.attach = .usbPd <;> simp [hp, htimer]

/-- One frame outside `Usb20` keeps the invariants and does not lead into `Usb20` (R222 to R233). -/
theorem deframe_attachInv {s : State} (hs : AttachInv s ∧ s.attach ≠ .usb20) :
    AttachInv (deframe s).2 ∧ (deframe s).2.attach ≠ .usb20 := by
  obtain ⟨hs, ha⟩ := hs
  have stored : ∀ h, AttachInv (frameStored h (s.regRead regFifos 3)) := fun h => attachInv_congr hs
  rcases deframe_cases s with e | ⟨h, e | e | e⟩ <;> rw [e]
  · unfold dropNonSop
    exact ⟨attachInv_congr hs, by simpa using ha⟩
  · exact ⟨stored h, by simpa using ha⟩
  · exact ⟨attachInv_congr (stored h), by simpa using ha⟩
  · exact ⟨acceptFrame_attachInv h (stored h) (by simpa using ha), by simp⟩

/-- A drain outside `Usb20` keeps the invariants (R222). -/
theorem drain_attachInv {k : Nat} {s t : State} (h : drain k s = .ok t) (hs : AttachInv s) (ha : s.attach ≠ .usb20) :
    AttachInv t :=
  (drain_induct (P := fun u => AttachInv u ∧ u.attach ≠ .usb20)
    (fun _ ⟨hinv, hattach⟩ => ⟨attachInv_congr hinv, by simpa using hattach⟩)
    (fun _ => deframe_attachInv) h ⟨hs, ha⟩).1

/-- Every way a POLL can end keeps the invariants (R201, R220). -/
theorem pollEnd_attachInv {s u : State} (h : PollEnd s u) (hs : AttachInv s) : AttachInv u := by
  have ⟨_, _, _, hq⟩ := hs
  cases h with
  | idleUsb20 | idle | pass => exact attachInv_congr hs
  | flip c ha => exact attachInv_of_usb20 (by simpa using ha) (by simpa using hq)
  | pdWait => exact attachInv_of_wait (.inl (by simp)) (by simp) (by simp) (by simpa using hq)
  | timeout | hardReset => exact enterRetryWait_attachInv _
  | retry => exact startSinkBody_attachInv (attachInv_congr hs)
  | drained ha hd => exact drain_attachInv hd (attachInv_congr hs) (by simpa using ha)

/-- A response moves nothing the invariants look at (R106). -/
theorem respond_attachInv {s : State} (status : BitVec 2) (value : Word) (hs : AttachInv s) :
    AttachInv (s.respond status value) := attachInv_congr hs

theorem answered_attachInv {status : BitVec 2} {value : Word} {s u : State} (h : answered status value s = .ok u)
    (hs : AttachInv s) : AttachInv u := by
  cases h
  exact attachInv_congr hs

/-- A lone TX token moves the framer only (log 6). -/
theorem tokenBody_attachInv {b : Byte} {s u : State} (h : tokenBody b s = .ok u) (hs : AttachInv s) : AttachInv u := by
  unfold tokenBody at h
  split at h
  · cases h
    exact attachInv_congr hs
  · cases h

/-- SEND_MESSAGE moves nothing the invariants look at (R250). -/
theorem sendMessageBody_attachInv {header : Header} {payload : List Byte} {s : State}
    (hp : payload.length = payloadLength header) (hs : AttachInv s) : AttachInv (sendMessageBody header payload s) := by
  obtain ⟨ha, hm, ht, -, -, -, -, -, -, hq, -⟩ := sendMessageBody_fields header payload s hp
  exact attachInv_congr hs ha hm ht hq

/-- Every instruction's body keeps the invariants, but for a frame token presented in `Usb20` (log 21). -/
theorem body_attachInv {i : Instr} {s u : State} (h : body i s = .ok u) (hs : AttachInv s)
    (hf : ∀ low, i = .rxTokenSop low → s.attach ≠ .usb20) : AttachInv u := by
  have hb : AttachInv s.begin := attachInv_congr hs
  cases i with
  | init => cases h; exact respond_attachInv _ _ (initBody_attachInv _)
  | startSink => cases h; exact respond_attachInv _ _ (startSinkBody_attachInv hb)
  | poll =>
    obtain ⟨v, hv, rfl⟩ := body_poll h
    exact respond_attachInv _ _ (pollEnd_attachInv hv hb)
  | sendMessage header =>
    cases h
    exact respond_attachInv _ _ (sendMessageBody_attachInv (payloadOperand_length header s.payloadPort) hb)
  | sendHeaderMessage type rev =>
    simp only [body] at h
    split at h
    · cases h
      exact respond_attachInv _ _ (sendMessageBody_attachInv (createCtrl_payloadLength type rev).symm hb)
    · exact answered_attachInv h hs
  | popEvent =>
    simp only [body] at h
    split at h
    · exact answered_attachInv h hs
    next e rest he =>
      obtain ⟨hmeas, hpd, hwait, hq⟩ := hs
      rw [he, List.length_cons] at hq
      exact answered_attachInv h ⟨by simpa using hmeas, by simpa using hpd, by simpa using hwait, by simp; omega⟩
  | getDeviceId => cases h; exact attachInv_congr hb
  | createCtrl | createData =>
    simp only [body] at h
    split at h <;> exact answered_attachInv h hs
  | tokSop1 | tokSop2 | tokPacksym | tokJamCrc | tokEop | tokTxoff | tokTxon => exact tokenBody_attachInv h hs
  | rxTokenSop low =>
    cases h
    exact (deframe_attachInv ⟨attachInv_congr hb, by simpa using hf low rfl⟩).1
  | _ => exact answered_attachInv h hs

/-- Only the RX port carries frame tokens (R124, log 8). -/
theorem decode_rxTokenSop {r : Request} {low : BitVec 5} (h : decode r.fetch = .ok (.rxTokenSop low)) :
    ∃ b, r = .rxToken b := by
  cases r with
  | command w payload =>
    simp only [Request.fetch, decode, decodeCommand] at h
    split at h <;> simp [formatN, formatH, formatT, formatD, formatX, ifReservedZero_ok] at h
  | txToken b =>
    simp only [Request.fetch, decode, decodeTxToken] at h
    repeat (split at h; · cases h)
    cases h
  | rxToken b => exact ⟨b, rfl⟩

/-- Settles O57: `body_attachInv` for what decodes, `deframe_attachInv` for a frame whose token is no SOP token. -/
theorem attachInvKept : Obligations.AttachInvKept := by
  intro s t hs hno h
  have taken : ∀ r rest, AttachInv (s.take r rest) := fun r rest => attachInv_congr hs
  rcases step_next h with ⟨-, rfl⟩ | ⟨r, rest, hin, ⟨i, hd, he⟩ | ⟨w, p, -, rfl⟩ | ⟨b, rfl, ht⟩⟩
  · exact hs
  · obtain ⟨u, hu, ht⟩ := exec_next he
    have hu' : AttachInv u := body_attachInv hu (taken r rest) fun low hi => by
      obtain ⟨b, rfl⟩ := decode_rxTokenSop (hi ▸ hd)
      simpa using hno b rest hin
    rw [ht]
    exact hu'
  · exact taken r rest
  · have presented : AttachInv ((s.take (.rxToken b) rest).begin.presentToken b) := attachInv_congr hs
    have hu := (deframe_attachInv ⟨presented, by simpa using hno b rest hin⟩).1
    rw [ht]
    exact hu

end Sys2Proof.Proofs
end

section
/-! Reset (R48), and the record of the chip's registers after commands whose bytes the chip acknowledges (R47, log 13). -/

namespace Sys2Proof.Proofs

open Sys2Proof.Machine Sys2Proof.Statements

/-! ## Reset -/

/-- Settles O55: the fields of `State.reset`, read off. -/
theorem resetValues : Obligations.ResetValues :=
  ⟨rfl, rfl, rfl, rfl, rfl, rfl, rfl, rfl, rfl, rfl⟩

/-- With an empty queue no handle is out of date. -/
theorem handlesInv_of_evq_nil {s : State} (h : s.evq = []) : HandlesInv s := by
  intro header slot g hmem
  rw [h] at hmem
  cases hmem

/-- Settles O56: in `Usb20` with the timer off, the memories and the queue empty, every invariant holds. -/
theorem resetMeetsInvariants : Obligations.ResetMeetsInvariants :=
  ⟨by decide, by decide, by decide, handlesInv_of_evq_nil rfl⟩

/-! ## The record of the chip's registers -/

/-- What the record reads after an acknowledged one-byte write to a register that holds values (R47). -/
theorem noteWrite_read {reg : Byte} (hreset : reg ≠ regReset) (hfifos : reg ≠ regFifos) (b : Byte) (regs : Memory)
    (a : Nat) : (noteWrite reg [b] regs).read a = if a = reg.toNat then some b else regs.read a := by
  simp only [noteWrite, List.getLast?_singleton, if_neg hreset, if_neg hfifos]
  exact Memory.read_write regs reg.toNat a b

/-- TX_EMPTY in numbers (R63). -/
theorem txEmpty_iff (b : Byte) : txEmpty b = true ↔ b.toNat / 8 % 2 = 1 := getLsbD_iff b 3

/-- The record after an acknowledged bring-up, register by register: its reset leaves nothing older (R181, R393). -/
theorem chipBringup_read {s : State} (h : AllAcked 15 s) (a : Nat) : (chipBringup s).chipRegs.read a =
    if a = 0x0F then some 0x01#8 else if a = 0x0E then some 0xFF#8 else if a = 0x0A then some 0xFF#8
    else if a = 0x0B then some 0x07#8 else none := by
  rw [(chipBringup_acked (n := 0) h).1]
  simp (disch := decide) only [noteWrite_read]
  rfl

/-- The record after the acknowledged writes of `enter_pd_wait(c)`, register by register (R194). -/
theorem pdWaitWrites_read {c : Cc} {s : State} (h : AllAcked 18 s) (a : Nat) : (pdWaitWrites c s).chipRegs.read a =
    if a = 0x06 then some 0x00#8 else if a = 0x03 then some (vSw1Pd c)
    else if a = 0x0F then some 0x00#8 else if a = 0x0E then some 0xEA#8 else if a = 0x0A then some 0xAF#8
    else if a = 0x09 then some 0x07#8 else s.chipRegs.read a := by
  rw [(pdWaitWrites_acked (n := 0) h).1]
  simp (disch := decide) only [noteWrite_read]
  rfl

/-- The record after an acknowledged one-byte write, register by register (R325, R47). -/
theorem regWrite_acked_read {s : State} {reg : Byte} (hreset : reg ≠ regReset) (hfifos : reg ≠ regFifos) (b : Byte)
    (h : AllAcked 3 s) (a : Nat) :
    (s.regWrite reg [b]).chipRegs.read a = if a = reg.toNat then some b else s.chipRegs.read a := by
  rw [(State.regWrite1_acked (n := 0) reg b h).1, noteWrite_read hreset hfifos]

/-- INIT, where the chip acknowledges (R182, R327). -/
theorem exec_init_acked {s : State} (hs : s.sclHold = none) (h : AllAcked 15 s) :
    ∃ t, exec .init s = .next t ∧ busBytes t.wire = 15 ∧ t.chipRegs = (chipBringup s.begin).chipRegs := by
  refine ⟨_, exec_of_body rfl hs, ?_, by simp⟩
  simpa [busBytes] using (chipBringup_acked (n := 0) (s := s.begin) h).2.1

/-- START_SINK leaves what its one write leaves (R190). -/
theorem exec_startSink_chipRegs {s : State} (hs : s.sclHold = none) : ∃ t, exec .startSink s = .next t ∧
    t.chipRegs = (s.begin.regWrite regSwitches0 [vSw0MeasCc1]).chipRegs := by
  refine ⟨_, exec_of_body rfl hs, ?_⟩
  simp [startSinkBody, vSw0Meas]

/-- SEND_MESSAGE leaves what its write of POWER leaves (R250). -/
theorem exec_sendMessage_chipRegs {s : State} (header : Header) (hs : s.sclHold = none) :
    ∃ t, exec (.sendMessage header) s = .next t ∧ t.chipRegs = (s.begin.regWrite regPower [vPowerAll]).chipRegs := by
  refine ⟨_, exec_of_body rfl hs, ?_⟩
  simp only [State.respond_fields]
  exact sendMessageBody_chipRegs header _ s.begin

/-- The TX-sent power-down with TX_EMPTY set, where the chip acknowledges (R256). -/
theorem txSent_read_of_txEmpty {s : State} (h : AllAcked 6 s) (he : txEmpty s.readByte = true) (a : Nat) :
    (txSent s).chipRegs.read a = if a = 0x0B then some 0x07#8 else s.chipRegs.read a := by
  have hacked := (State.regRead_acked_next (n := 3) regStatus1 1 h).2
  rw [txSent_eq, if_pos he, regWrite_acked_read (by decide) (by decide) vPowerNoOsc hacked]
  simp only [State.regRead_fields]
  rfl

/-- The TX-sent power-down with TX_EMPTY clear writes nothing (R256). -/
theorem txSent_chipRegs_of_not_txEmpty {s : State} (he : ¬ txEmpty s.readByte = true) :
    (txSent s).chipRegs = s.chipRegs := by
  rw [txSent_eq, if_neg he]
  simp

/-- Settles O23: the record of each command's writes, read register by register. -/
theorem chipRegistersAfterCommands : Obligations.ChipRegistersAfterCommands := by
  refine ⟨fun s hs h => ?_, fun s hs h => ?_, fun s header hs h => ?_, fun s h he => ?_, fun s he => ?_⟩
  · obtain ⟨t, ht, hbus, hregs⟩ := exec_init_acked hs h
    have hread := chipBringup_read (s := s.begin) h
    rw [← hregs] at hread
    refine ⟨t, ht, hbus, hread _, hread _, hread _, hread _, fun a ha => ?_⟩
    simp only [List.mem_cons, List.not_mem_nil, or_false, not_or] at ha
    simp [hread, ha]
  · obtain ⟨t, ht, hregs⟩ := exec_startSink_chipRegs hs
    have hread := regWrite_acked_read (s := s.begin) (reg := regSwitches0) (by decide) (by decide) vSw0MeasCc1 h
    rw [← hregs] at hread
    exact ⟨t, ht, hread _, fun a ha => (hread a).trans (if_neg ha)⟩
  · obtain ⟨t, ht, hregs⟩ := exec_sendMessage_chipRegs header hs
    have hread := regWrite_acked_read (s := s.begin) (reg := regPower) (by decide) (by decide) vPowerAll h
    rw [← hregs] at hread
    exact ⟨t, ht, hread _, fun a ha => (hread a).trans (if_neg ha)⟩
  · have hread := txSent_read_of_txEmpty h ((txEmpty_iff s.readByte).2 he)
    exact ⟨hread _, fun a ha => (hread a).trans (if_neg ha)⟩
  · refine txSent_chipRegs_of_not_txEmpty (mt (txEmpty_iff s.readByte).1 ?_)
    have hclear : s.readByte.toNat / 8 % 2 = 0 := he
    omega

/-- A POLL in `Usb20` whose expired measurement shows a level enters `UsbPdWait` (R192, R194). -/
theorem pollBody_entersPdWait {s : State} {c : Cc} (ha : s.attach = .usb20) (hm : s.measCc = some c) (he : Expired s)
    (hlevel : s.readByte.toNat % 4 ≠ 0) :
    pollBody s = .ok (enterPdWait c (s.sampleMillis.regRead regStatus0 1)) := by
  have hbc : bcLvl s.sampleMillis.readByte ≠ 0#2 := fun h => hlevel ((bcLvl_eq _).1 h)
  rw [pollBody_usb20 ha, pollTimer_expired he]
  simp only [onExpiry, State.sampleMillis_fields, ha, checkMeasurement, hm, if_neg hbc, State.regRead1_eq]

/-- Settles O29: the read of STATUS0 puts four bytes on the bus and the six writes of R194 eighteen. -/
theorem pdWaitChipRegisters : Obligations.PdWaitChipRegisters := by
  intro s c ha hm he hlevel hs h
  have hpoll := pollBody_entersPdWait (s := s.begin) ha hm he hlevel
  obtain ⟨hbus, hacked⟩ := State.regRead_acked_next (n := 18) (s := s.begin.sampleMillis) regStatus0 1 h
  have hacked' : AllAcked 18 (s.begin.sampleMillis.regRead regStatus0 1).initIntN := hacked
  have hread := pdWaitWrites_read (c := c) hacked'
  have hwrites := (pdWaitWrites_acked (n := 0) (c := c) hacked').2.1
  refine ⟨_, execPoll_ok hpoll hs, ?_, ?_⟩
  · simp only [State.respond_fields, enterPdWait_fields, hwrites, State.initIntN_fields, hbus]
    rfl
  · simp only [State.respond_fields, enterPdWait_fields]
    refine ⟨hread _, hread _, hread _, hread _, hread _, hread _, fun a hother => ?_⟩
    simp only [List.mem_cons, List.not_mem_nil, or_false, not_or] at hother
    simp [hread, hother]

end Sys2Proof.Proofs
end

section
/-! Memory (20_memory.md section 1): the ring, `tx_buf` and the record of the chip stay canonical and inside their address
spaces, the token stream inside `tx_buf`, and the bus is idle after every step. -/

namespace Sys2Proof.Proofs

open Sys2Proof.Machine

/-! ## The state's operations -/

/-- The invariant looks at five fields; an operation that leaves the memories and the stream's place alone keeps it where
the lines stand or are released. -/
theorem storageInv_congr {s t : State} (hs : StorageInv s) (hring : t.rxRing = s.rxRing := by simp)
    (hbuf : t.txBuf = s.txBuf := by simp) (hregs : t.chipRegs = s.chipRegs := by simp)
    (hpos : t.txPos = s.txPos := by simp) (hlines : t.lines = s.lines ∨ t.lines = Lines.idle := by simp) :
    StorageInv t := by
  obtain ⟨ring, buf, regs, pos, idle⟩ := hs
  unfold StorageInv
  rw [hring, hbuf, hregs, hpos]
  exact ⟨ring, buf, regs, pos, hlines.elim (·.trans idle) id⟩

/-- A write to the chip is recorded below address 256 and ends with STOP (R325, R328, R330). -/
theorem regWrite_storageInv (reg : Byte) (v : List Byte) {s : State} (hs : StorageInv s) :
    StorageInv (s.regWrite reg v) := by
  obtain ⟨ring, buf, ⟨hwf, hbelow⟩, pos, -⟩ := hs
  simp only [StorageInv, State.regWrite_fields]
  exact ⟨ring, buf, ⟨noteWrite_wf _ _ _ hwf, noteWrite_below _ _ _ hbelow⟩, pos, trivial⟩

/-- A read of the chip touches no memory and ends with STOP (R326, R328). -/
theorem regRead_storageInv (reg : Byte) (n : Nat) {s : State} (hs : StorageInv s) : StorageInv (s.regRead reg n) :=
  storageInv_congr hs

/-- A byte appended to the stream stands in `tx_buf` where there is a place left (R252, R60). -/
theorem emitByte_storageInv (b : Byte) {s : State} (hs : StorageInv s) (hfit : s.txPos < Config.txBufBytes) :
    StorageInv (s.emitByte b) := by
  obtain ⟨ring, ⟨hwf, hbelow⟩, regs, -, idle⟩ := hs
  simp only [StorageInv, State.emitByte_fields]
  exact ⟨ring, ⟨s.txBuf.write_wf _ b hwf, s.txBuf.write_below b hfit hbelow⟩, regs, hfit, idle⟩

/-! ## Attach -/

theorem chipBringup_storageInv {s : State} (hs : StorageInv s) : StorageInv (chipBringup s) := by
  have hdelay : StorageInv ((s.regWrite regReset [vResetAll]).delay Config.resetDelayMs) :=
    storageInv_congr (regWrite_storageInv regReset [vResetAll] hs)
  exact regWrite_storageInv regMaskb [vMaskbAll] <| regWrite_storageInv regMaska [vMaskaAll] <|
    regWrite_storageInv regMask [vMaskAll] <| regWrite_storageInv regPower [vPowerNoOsc] hdelay

theorem initBody_storageInv {s : State} (hs : StorageInv s) : StorageInv (initBody s) :=
  storageInv_congr (chipBringup_storageInv hs)

theorem startMeasurement_storageInv (c : Cc) {s : State} (hs : StorageInv s) : StorageInv (startMeasurement c s) :=
  storageInv_congr (regWrite_storageInv regSwitches0 [vSw0Meas c] hs)

theorem startSinkBody_storageInv {s : State} (hs : StorageInv s) : StorageInv (startSinkBody s) :=
  startMeasurement_storageInv .cc1 (s := { s with attach := .usb20 }) (storageInv_congr hs)

theorem pdWaitWrites_storageInv (c : Cc) {s : State} (hs : StorageInv s) : StorageInv (pdWaitWrites c s) :=
  regWrite_storageInv regControl0 [vCtrl0Pd] <| regWrite_storageInv regSwitches1 [vSw1Pd c] <|
    regWrite_storageInv regMaskb [vMaskbPd] <| regWrite_storageInv regMaska [vMaskaPd] <|
    regWrite_storageInv regMask [vMaskPd] <| regWrite_storageInv regControl3 [vCtrl3Pd] hs

theorem enterPdWait_storageInv (c : Cc) {s : State} (hs : StorageInv s) : StorageInv (enterPdWait c s) :=
  storageInv_congr (pdWaitWrites_storageInv c (s := s.initIntN) (storageInv_congr hs))

theorem enterRetryWait_storageInv {s : State} (hs : StorageInv s) : StorageInv (enterRetryWait s) :=
  storageInv_congr (chipBringup_storageInv hs)

/-! ## The receive path -/

/-- A frame's bytes, at most 32, stay inside the ring from offset 0 of any slot (R225, R60). -/
theorem ringAddress_frame_le (slot : BitVec 2) (h : Header) :
    ringAddress slot 0 + (payloadLength h + 4) ≤ Config.rxSlots * Config.rxSlotBytes := by
  have hslot := slot.isLt
  have hpayload := payloadLength_le h
  simp only [ringAddress, Config.rxSlots, Config.rxSlotBytes]
  omega

theorem frameStored_storageInv (h : Header) {s : State} (hs : StorageInv s) : StorageInv (frameStored h s) := by
  obtain ⟨⟨hwf, hbelow⟩, buf, regs, pos, -⟩ := hs
  have hfit : ringAddress s.rxIdx 0 + (s.readData (payloadLength h + 4)).length
      ≤ Config.rxSlots * Config.rxSlotBytes := by
    simpa [State.readData] using ringAddress_frame_le s.rxIdx h
  simp only [StorageInv, frameStored_fields]
  exact ⟨⟨s.rxRing.writeList_wf _ _ hwf, s.rxRing.writeList_below _ _ hfit hbelow⟩, buf, regs, pos, trivial⟩

theorem dropNonSop_storageInv (token : Byte) {s : State} (hs : StorageInv s) : StorageInv (dropNonSop token s) :=
  regWrite_storageInv regControl1 [vCtrl1RxFlush] (s := s.raise (.notSop token)) (storageInv_congr hs)

/-- One frame is dropped or stored; the verdict on a stored one touches no memory (R222 to R233). -/
theorem deframe_storageInv {s : State} (hs : StorageInv s) : StorageInv (deframe s).2 := by
  have hread := regRead_storageInv regFifos 3 hs
  rcases deframe_cases s with e | ⟨h, e | e | e⟩ <;> rw [e]
  · exact dropNonSop_storageInv _ hread
  · exact frameStored_storageInv h hread
  · exact storageInv_congr (frameStored_storageInv h hread)
  · exact storageInv_congr (frameStored_storageInv h hread)

theorem drain_storageInv {k : Nat} {s t : State} (h : drain k s = .ok t) (hs : StorageInv s) : StorageInv t :=
  drain_induct (P := StorageInv) (fun _ => regRead_storageInv regStatus1 1) (fun _ => deframe_storageInv) h hs

theorem txSent_storageInv {s : State} (hs : StorageInv s) : StorageInv (txSent s) := by
  have hread := regRead_storageInv regStatus1 1 hs
  rw [txSent_eq]
  split
  · exact regWrite_storageInv regPower [vPowerNoOsc] hread
  · exact hread

/-- The start of an interrupt pass: three reads, and the power-down where I_TXSENT is set (R220, R221, R256). -/
theorem passed_storageInv {s : State} (hs : StorageInv s) : StorageInv (passed s) := by
  have hnoted : StorageInv (noteRetryFail (s.regRead regInterrupt 1).readByte
      (((s.regRead regInterrupt 1).regRead regInterrupta 1).regRead regInterruptb 1)) := storageInv_congr hs
  unfold passed handleTxSent
  split
  · exact txSent_storageInv hnoted
  · exact hnoted

theorem passedHardReset_storageInv {s : State} (hs : StorageInv s) : StorageInv (passedHardReset s) := by
  unfold passedHardReset
  exact storageInv_congr hs

/-- Every way a POLL can end keeps the invariant (R201, R220). -/
theorem pollEnd_storageInv {s u : State} (h : PollEnd s u) (hs : StorageInv s) : StorageInv u := by
  have hsampled : StorageInv s.sampleIntN := storageInv_congr hs
  cases h with
  | idleUsb20 | idle => exact storageInv_congr hs
  | flip c => exact startMeasurement_storageInv _ (storageInv_congr hs)
  | pdWait c => exact enterPdWait_storageInv c (storageInv_congr hs)
  | timeout => exact enterRetryWait_storageInv (storageInv_congr hs)
  | retry => exact startSinkBody_storageInv (storageInv_congr hs)
  | hardReset => exact enterRetryWait_storageInv (passedHardReset_storageInv hsampled)
  | pass => exact passed_storageInv hsampled
  | drained _ hd => exact drain_storageInv hd (passed_storageInv hsampled)

/-! ## The transmit path -/

/-- A stream is 11 bytes and its payload (R122). -/
theorem length_txStream (h : Header) (payload : List Byte) : (txStream h payload).length = 11 + payload.length := by
  simp [txStream]
  omega

/-- SEND_MESSAGE builds at most 39 bytes from offset 0 (R123, R252); in the record of the chip it leaves what its write of
POWER leaves (R250). -/
theorem sendMessageBody_storageInv {header : Header} {payload : List Byte} {s : State}
    (hp : payload.length = payloadLength header) (hs : StorageInv s) : StorageInv (sendMessageBody header payload s) := by
  obtain ⟨-, -, -, -, -, -, -, hring, hbuf, -, -, -, hlines, hpos, -⟩ := sendMessageBody_fields header payload s hp
  obtain ⟨-, -, regs, -, -⟩ := regWrite_storageInv regPower [vPowerAll] hs
  obtain ⟨ring, ⟨hwf, hbelow⟩, -, -, -⟩ := hs
  have hpayload := payloadLength_le header
  have hstream : 11 + payloadLength header ≤ Config.txBufBytes := by
    simp only [Config.txBufBytes]
    omega
  have hfit : 0 + (txStream (stampId header s.nextMessageId) payload).length ≤ Config.txBufBytes := by
    rwa [length_txStream, hp, Nat.zero_add]
  unfold StorageInv
  rw [hring, hbuf, hpos, hlines, sendMessageBody_chipRegs]
  exact ⟨ring, ⟨Memory.writeList_wf _ _ _ hwf, Memory.writeList_below _ _ _ hfit hbelow⟩, regs, hstream, rfl⟩

/-- A lone TX token is appended only below address 40 (R60, log 9). -/
theorem tokenBody_storageInv {b : Byte} {s u : State} (h : tokenBody b s = .ok u) (hs : StorageInv s) :
    StorageInv u := by
  unfold tokenBody at h
  split at h
  next hfit =>
    cases h
    exact emitByte_storageInv b (s := s.begin) hs hfit
  next => cases h

/-! ## Instructions and steps -/

/-- A response moves nothing the invariant looks at (R106). -/
theorem respond_storageInv (status : BitVec 2) (value : Word) {s : State} (hs : StorageInv s) :
    StorageInv (s.respond status value) := hs

theorem answered_storageInv {status : BitVec 2} {value : Word} {s u : State} (h : answered status value s = .ok u)
    (hs : StorageInv s) : StorageInv u := by
  cases h
  exact hs

/-- Every instruction's body keeps the invariant. -/
theorem body_storageInv {i : Instr} {s u : State} (h : body i s = .ok u) (hs : StorageInv s) : StorageInv u := by
  have hb : StorageInv s.begin := hs
  cases i with
  | init => cases h; exact respond_storageInv _ _ (initBody_storageInv hb)
  | startSink => cases h; exact respond_storageInv _ _ (startSinkBody_storageInv hb)
  | poll =>
    obtain ⟨v, hv, rfl⟩ := body_poll h
    exact respond_storageInv _ _ (pollEnd_storageInv hv hb)
  | sendMessage header =>
    cases h
    exact respond_storageInv _ _ (sendMessageBody_storageInv (payloadOperand_length header s.payloadPort) hb)
  | sendHeaderMessage type rev =>
    simp only [body] at h
    split at h
    · cases h
      exact respond_storageInv _ _ (sendMessageBody_storageInv (createCtrl_payloadLength type rev).symm hb)
    · exact answered_storageInv h hs
  | popEvent =>
    simp only [body] at h
    split at h
    · exact answered_storageInv h hs
    · exact answered_storageInv h (storageInv_congr hs)
  | getDeviceId => cases h; exact respond_storageInv _ _ (regRead_storageInv regDeviceId 1 hb)
  | createCtrl | createData =>
    simp only [body] at h
    split at h <;> exact answered_storageInv h hs
  | tokSop1 | tokSop2 | tokPacksym | tokJamCrc | tokEop | tokTxoff | tokTxon => exact tokenBody_storageInv h hs
  | rxTokenSop low => cases h; exact deframe_storageInv (storageInv_congr hb)
  | _ => exact answered_storageInv h hs

/-- Settles O59: what decodes keeps the invariant by `body_storageInv`, and so does a frame whose token is no SOP token;
the rest of a step touches none of its fields. -/
theorem storageInvKept : Obligations.StorageInvKept := fun _ _ hs h =>
  step_keeps (P := StorageInv) (fun _ _ _ hs => storageInv_congr hs) (fun _ _ _ _ _ hs => hs)
    (fun _ _ _ => body_storageInv) (fun _ _ hs => deframe_storageInv (storageInv_congr hs)) h hs

end Sys2Proof.Proofs
end

section
/-! Encoding (30_encoding.md): the decoder and the encoder are inverse, illegal words and operands have no effect, every
command word has one response, and what a lone token does. -/

namespace Sys2Proof.Proofs

open Sys2Proof.Machine Sys2Proof.Statements

/-! ## What the decoder reads in the encoder's words

One lemma per format of R103: the row of the opcode map selects the format, its reserved bits are the encoder's zeros,
and its fields are the operands. -/

theorem decode_encodeN {opcode : Byte} {i : Instr}
    (row : ∀ w, opcodeOf w = opcode → decodeCommand w = formatN w i) :
    decode (encodeN opcode) = .ok i :=
  (row _ (opcodeOf_append 0#24 opcode)).trans <|
    (ifReservedZero_ok ..).2 ⟨beq_iff_eq.2 (formatN_zero opcode), rfl⟩

theorem decode_encodeH {opcode : Byte} {make : Header → Instr}
    (row : ∀ w, opcodeOf w = opcode → decodeCommand w = formatH w (make (headerField w))) (header : Header) :
    decode (encodeH opcode header) = .ok (make header) :=
  (row _ (opcodeOf_append (0#8 ++ header) opcode)).trans <|
    (ifReservedZero_ok ..).2 ⟨beq_iff_eq.2 (formatH_zero header opcode), by rw [headerField_encode]⟩

theorem decode_encodeT {opcode : Byte} {make : BitVec 5 → BitVec 2 → Instr}
    (row : ∀ w, opcodeOf w = opcode → decodeCommand w = formatT w (make (typeField w) (revField w)))
    (type : BitVec 5) (rev : BitVec 2) : decode (encodeT opcode type rev) = .ok (make type rev) :=
  (row _ (opcodeOf_append (0#17 ++ rev ++ type) opcode)).trans <|
    (ifReservedZero_ok ..).2 ⟨beq_iff_eq.2 (formatT_zero type rev opcode), by
      rw [formatT_typeField, formatT_revField]⟩

theorem decode_encodeD {opcode : Byte} {make : BitVec 5 → BitVec 3 → BitVec 2 → Instr}
    (row : ∀ w, opcodeOf w = opcode → decodeCommand w = formatD w (make (typeField w) (countField w) (revField w)))
    (type : BitVec 5) (n : BitVec 3) (rev : BitVec 2) : decode (encodeD opcode type n rev) = .ok (make type n rev) :=
  (row _ (opcodeOf_append (0#14 ++ n ++ rev ++ type) opcode)).trans <|
    (ifReservedZero_ok ..).2 ⟨beq_iff_eq.2 (formatD_zero type n rev opcode), by
      rw [formatD_typeField, formatD_countField, formatD_revField]⟩

theorem decode_encodeX {opcode : Byte} {make : BitVec 2 → BitVec 6 → Instr}
    (row : ∀ w, opcodeOf w = opcode → decodeCommand w = formatX w (make (slotField w) (offsetField w)))
    (slot : BitVec 2) (offset : BitVec 6) : decode (encodeX opcode slot offset) = .ok (make slot offset) :=
  (row _ (opcodeOf_append (0#16 ++ offset ++ slot) opcode)).trans <|
    (ifReservedZero_ok ..).2 ⟨beq_iff_eq.2 (formatX_zero slot offset opcode), by
      rw [formatX_slotField, formatX_offsetField]⟩

/-- Settles O1: each command's row of R101 is read in a word of its format; a token's byte has five free bits at most. -/
theorem decodeOfEncode : Obligations.DecodeOfEncode := by
  intro i
  cases i with
  | init => exact decode_encodeN decodeCommand_init
  | startSink => exact decode_encodeN decodeCommand_startSink
  | poll => exact decode_encodeN decodeCommand_poll
  | sendMessage header => exact decode_encodeH decodeCommand_sendMessage header
  | sendHeaderMessage type rev => exact decode_encodeT decodeCommand_sendHeaderMessage type rev
  | hasEvent => exact decode_encodeN decodeCommand_hasEvent
  | popEvent => exact decode_encodeN decodeCommand_popEvent
  | getState => exact decode_encodeN decodeCommand_getState
  | getDeviceId => exact decode_encodeN decodeCommand_getDeviceId
  | readRxByte slot offset => exact decode_encodeX decodeCommand_readRxByte slot offset
  | eventCount => exact decode_encodeN decodeCommand_eventCount
  | createCtrl type rev => exact decode_encodeT decodeCommand_createCtrl type rev
  | createData type n rev => exact decode_encodeD decodeCommand_createData type n rev
  | hdrMessageType header => exact decode_encodeH decodeCommand_hdrMessageType header
  | hdrNumDataObjs header => exact decode_encodeH decodeCommand_hdrNumDataObjs header
  | hdrSpecRev header => exact decode_encodeH decodeCommand_hdrSpecRev header
  | hdrMessageId header => exact decode_encodeH decodeCommand_hdrMessageId header
  | hdrExtended header => exact decode_encodeH decodeCommand_hdrExtended header
  | hdrDataRole header => exact decode_encodeH decodeCommand_hdrDataRole header
  | hdrPowerRole header => exact decode_encodeH decodeCommand_hdrPowerRole header
  | tokPacksym len => exact (decodesTo_iff ..).1 (by revert len; decide)
  | rxTokenSop low => exact (decodesTo_iff ..).1 (by revert low; decide)
  | tokSop1 | tokSop2 | tokJamCrc | tokEop | tokTxoff | tokTxon => rfl

/-! ## What the encoder writes for a word that decodes

Said of the reserved bits as masks, which is how R108 and `LegalWord` tell them. -/

/-- The reserved bits of a format, from bit `k` up, are told by their mask (R103, R108). -/
theorem reservedZero_ok_iff (w : Word) (i j : Instr) (k : Nat) (hk : k ≤ 32) :
    ifReservedZero (w.extractLsb' k (32 - k) == 0#(32 - k)) w j = .ok i ↔
      w &&& (BitVec.allOnes 32 <<< k) = 0#32 ∧ j = i := by
  rw [ifReservedZero_ok, beq_iff_eq, mask_zero w k hk]

theorem formatN_ok_iff (w : Word) (i j : Instr) : formatN w j = .ok i ↔ w &&& 0xFFFFFF00#32 = 0#32 ∧ j = i :=
  reservedZero_ok_iff w i j 8 (by decide)

theorem formatH_ok_iff (w : Word) (i j : Instr) : formatH w j = .ok i ↔ w &&& 0xFF000000#32 = 0#32 ∧ j = i :=
  reservedZero_ok_iff w i j 24 (by decide)

theorem formatT_ok_iff (w : Word) (i j : Instr) : formatT w j = .ok i ↔ w &&& 0xFFFF8000#32 = 0#32 ∧ j = i :=
  reservedZero_ok_iff w i j 15 (by decide)

theorem formatD_ok_iff (w : Word) (i j : Instr) : formatD w j = .ok i ↔ w &&& 0xFFFC0000#32 = 0#32 ∧ j = i :=
  reservedZero_ok_iff w i j 18 (by decide)

theorem formatX_ok_iff (w : Word) (i j : Instr) : formatX w j = .ok i ↔ w &&& 0xFFFF0000#32 = 0#32 ∧ j = i :=
  reservedZero_ok_iff w i j 16 (by decide)

/-- What a command word is that decodes to `i`: the word of `i`, and a legal one. -/
def CommandWordOf (w : Word) (i : Instr) : Prop := encode i = .command w ∧ LegalWord w

section
variable {w : Word} {opcode : Byte} (ho : opcodeOf w = opcode)
include ho

theorem encodeN_of_mask (hm : w &&& 0xFFFFFF00#32 = 0#32) : encodeN opcode = .command w := by
  rw [encodeN, ← ho, ← (mask_zero w 8 (by decide)).1 hm, word_formatN]

theorem encodeH_of_mask (hm : w &&& 0xFF000000#32 = 0#32) : encodeH opcode (headerField w) = .command w := by
  rw [encodeH, ← ho, ← (mask_zero w 24 (by decide)).1 hm, word_formatH]

theorem encodeT_of_mask (hm : w &&& 0xFFFF8000#32 = 0#32) :
    encodeT opcode (typeField w) (revField w) = .command w := by
  rw [encodeT, ← ho, ← (mask_zero w 15 (by decide)).1 hm, word_formatT]

theorem encodeD_of_mask (hm : w &&& 0xFFFC0000#32 = 0#32) :
    encodeD opcode (typeField w) (countField w) (revField w) = .command w := by
  rw [encodeD, ← ho, ← (mask_zero w 18 (by decide)).1 hm, word_formatD]

theorem encodeX_of_mask (hm : w &&& 0xFFFF0000#32 = 0#32) :
    encodeX opcode (slotField w) (offsetField w) = .command w := by
  rw [encodeX, ← ho, ← (mask_zero w 16 (by decide)).1 hm, word_formatX]

end

/-- A word read in the format of its row is the word of what is read, and legal. -/
theorem commandWordOf_of_format {w mask : Word} {opcode : Byte} {i j : Instr}
    {format : Word → Instr → Except DecodeError Instr}
    (hformat : ∀ w i j, format w j = .ok i ↔ w &&& mask = 0#32 ∧ j = i) (h : format w j = .ok i)
    (hword : opcodeOf w = opcode → w &&& mask = 0#32 → encode j = .command w)
    (ho : (opcodeOf w).toNat = opcode.toNat) (hrow : (opcode, mask) ∈ commandRows) : CommandWordOf w i := by
  have hopcode := BitVec.eq_of_toNat_eq ho
  obtain ⟨hm, rfl⟩ := (hformat ..).1 h
  exact ⟨hword hopcode hm, _, hrow, hopcode, hm⟩

/-- The rows of the opcode map, by format: a command word that decodes is legal and the word of its instruction. -/
theorem decodeCommand_ok {w : Word} {i : Instr} (h : decodeCommand w = .ok i) : CommandWordOf w i := by
  unfold decodeCommand at h
  split at h
  case h_1 ho | h_2 ho | h_3 ho | h_6 ho | h_7 ho | h_8 ho | h_9 ho | h_11 ho =>
    exact commandWordOf_of_format formatN_ok_iff h encodeN_of_mask ho (by decide)
  case h_4 ho | h_14 ho | h_15 ho | h_16 ho | h_17 ho | h_18 ho | h_19 ho | h_20 ho =>
    exact commandWordOf_of_format formatH_ok_iff h encodeH_of_mask ho (by decide)
  case h_5 ho | h_12 ho => exact commandWordOf_of_format formatT_ok_iff h encodeT_of_mask ho (by decide)
  case h_13 ho => exact commandWordOf_of_format formatD_ok_iff h encodeD_of_mask ho (by decide)
  case h_10 ho => exact commandWordOf_of_format formatX_ok_iff h encodeX_of_mask ho (by decide)
  case h_21 => cases h

/-- The TX token bytes are the tokens' own, PACKSYM's with its count (R120, R121). -/
theorem decodeTxToken_ok {b : Byte} {i : Instr} (h : decodeTxToken b = .ok i) : encode i = .txToken b := by
  have packsym : ∀ b : Byte, b &&& 0xE0#8 = tokPacksymBase → 0b100#3 ++ b.extractLsb' 0 5 = b := by decide
  unfold decodeTxToken at h
  iterate 6
    split at h
    next hb => cases h; exact congrArg _ hb.symm
  split at h
  next hb => cases h; exact congrArg _ (packsym b hb)
  next => cases h

/-- An SOP token byte is 111 above the five bits the block ignores (R124). -/
theorem decodeRxToken_ok {b : Byte} {i : Instr} (h : decodeRxToken b = .ok i) : encode i = .rxToken b := by
  have sop : ∀ b : Byte, isSopToken b = true → 0b111#3 ++ b.extractLsb' 0 5 = b := by decide
  unfold decodeRxToken at h
  split at h
  next hb => cases h; exact congrArg _ (sop b hb)
  next => cases h

/-- Settles O2: one inversion of the decoder per port. -/
theorem encodeOfDecode : Obligations.EncodeOfDecode
  | .command _, _, h => (decodeCommand_ok h).1
  | .txToken _, _, h => decodeTxToken_ok h
  | .rxToken _, _, h => decodeRxToken_ok h

/-! ## Worked examples -/

/-- Settles O3: the decoder evaluated at the seven words. -/
theorem workedEncodings : Obligations.WorkedEncodings := ⟨rfl, rfl, rfl, rfl, rfl, rfl, rfl⟩

/-- The five bits of a byte that an SOP token leaves free, as a number. -/
theorem low_five_bits_eq (b : Byte) : b.extractLsb' 0 5 = BitVec.ofNat 5 (b.toNat % 32) := by
  apply BitVec.eq_of_toNat_eq
  simp

/-- Settles O4: the TX bytes are finitely many, and the RX test is `isSopToken_iff`. -/
theorem tokenDecoding : Obligations.TokenDecoding := by
  refine ⟨rfl, rfl, rfl, rfl, rfl, rfl, fun n => (decodesTo_iff ..).1 (by revert n; decide), fun b => ?_⟩
  simp only [decode, decodeRxToken, isSopToken_iff, low_five_bits_eq]

/-! ## Illegal words and operands -/

/-- The decoder reads an instruction from every word of the row: this opcode, and no reserved bit of this mask. -/
def RowDecodes (w : Word) (row : Byte × Word) : Prop :=
  opcodeOf w = row.1 → w &&& row.2 = 0#32 → ∃ i, decodeCommand w = .ok i

theorem rowDecodes_of_format {w mask : Word} {opcode : Byte} {i : Instr}
    {format : Word → Instr → Except DecodeError Instr}
    (hformat : ∀ w i j, format w j = .ok i ↔ w &&& mask = 0#32 ∧ j = i)
    (h : opcodeOf w = opcode → decodeCommand w = format w i) : RowDecodes w (opcode, mask) :=
  fun ho hm => ⟨i, (h ho).trans ((hformat ..).2 ⟨hm, rfl⟩)⟩

/-- Every row of the opcode map decodes (R101, R103). -/
theorem rowDecodes_commandRows (w : Word) : ∀ row ∈ commandRows, RowDecodes w row := by
  simp only [commandRows, List.forall_mem_cons]
  exact ⟨rowDecodes_of_format formatN_ok_iff (decodeCommand_init w),
    rowDecodes_of_format formatN_ok_iff (decodeCommand_startSink w),
    rowDecodes_of_format formatN_ok_iff (decodeCommand_poll w),
    rowDecodes_of_format formatH_ok_iff (decodeCommand_sendMessage w),
    rowDecodes_of_format formatT_ok_iff (decodeCommand_sendHeaderMessage w),
    rowDecodes_of_format formatN_ok_iff (decodeCommand_hasEvent w),
    rowDecodes_of_format formatN_ok_iff (decodeCommand_popEvent w),
    rowDecodes_of_format formatN_ok_iff (decodeCommand_getState w),
    rowDecodes_of_format formatN_ok_iff (decodeCommand_getDeviceId w),
    rowDecodes_of_format formatX_ok_iff (decodeCommand_readRxByte w),
    rowDecodes_of_format formatN_ok_iff (decodeCommand_eventCount w),
    rowDecodes_of_format formatT_ok_iff (decodeCommand_createCtrl w),
    rowDecodes_of_format formatD_ok_iff (decodeCommand_createData w),
    rowDecodes_of_format formatH_ok_iff (decodeCommand_hdrMessageType w),
    rowDecodes_of_format formatH_ok_iff (decodeCommand_hdrNumDataObjs w),
    rowDecodes_of_format formatH_ok_iff (decodeCommand_hdrSpecRev w),
    rowDecodes_of_format formatH_ok_iff (decodeCommand_hdrMessageId w),
    rowDecodes_of_format formatH_ok_iff (decodeCommand_hdrExtended w),
    rowDecodes_of_format formatH_ok_iff (decodeCommand_hdrDataRole w),
    rowDecodes_of_format formatH_ok_iff (decodeCommand_hdrPowerRole w),
    List.forall_mem_nil _⟩

/-- The decoder reads an instruction from exactly the legal words (R108). -/
theorem legalWord_iff (w : Word) : LegalWord w ↔ ∃ i, decodeCommand w = .ok i :=
  ⟨fun ⟨row, hrow, ho, hm⟩ => rowDecodes_commandRows w row hrow ho hm, fun ⟨_, h⟩ => (decodeCommand_ok h).2⟩

/-- Only host commands have command words. -/
theorem isCommand_of_encode {i : Instr} {w : Word} (h : encode i = .command w) : i.isCommand = true := by
  cases i with
  | tokSop1 | tokSop2 | tokPacksym | tokJamCrc | tokEop | tokTxoff | tokTxon | rxTokenSop => cases h
  | _ => rfl

theorem isCommand_of_decode {w : Word} {i : Instr} (h : decodeCommand w = .ok i) : i.isCommand = true :=
  isCommand_of_encode (decodeCommand_ok h).1

/-- A command word that does not decode is ILLEGAL_COMMAND (R108). -/
theorem refused_of_decode_error {w : Word} {e : DecodeError} (hd : decodeCommand w = .error e) : Refused w := by
  intro s payload rest hin
  have hstep : step s = onDecodeError e (s.take (.command w payload) rest) := by
    simp only [step, hin, Request.fetch, decode, hd]
  rcases onDecodeError_cases (r := .command w payload) hd with ⟨_, _, -, he⟩ | ⟨b, hr, -⟩ | ⟨b, hr, -⟩
  · rw [hstep, he, illegalCommand_eq]
    rfl
  · cases hr
  · cases hr

theorem refused_of_not_legalWord {w : Word} (h : ¬ LegalWord w) : Refused w := by
  cases hd : decodeCommand w with
  | ok i => exact absurd ((legalWord_iff w).2 ⟨i, hd⟩) h
  | error e => exact refused_of_decode_error hd

/-- Settles O5: legal words are the words that decode, and a command word that does not decode is refused. -/
theorem illegalCommandHasNoEffect : Obligations.IllegalCommandHasNoEffect := by
  refine fun w => ⟨refused_of_not_legalWord, fun h => ?_⟩
  obtain ⟨i, hd⟩ := (legalWord_iff w).1 h
  exact ⟨i, hd, isCommand_of_decode hd⟩

/-- Each operand value R109 calls illegal is answered as ILLEGAL_OPERAND. -/
theorem exec_of_illegalOperand {i : Instr} (s : State) (h : IllegalOperand i) : exec i s = illegalOperand s := by
  cases i with
  | sendHeaderMessage type rev | createCtrl type rev =>
    obtain rfl : rev = 0#2 := h
    rfl
  | createData type n rev =>
    refine if_neg fun hlegal => ?_
    obtain ⟨hrev, hn⟩ := Bool.and_eq_true_iff.1 hlegal
    exact h.elim ((revLegal_eq rev).1 hrev) ((numObjsLegal_eq n).1 hn)
  | _ => exact h.elim

theorem answered_resp {status : BitVec 2} {value : Word} {s u : State} (h : answered status value s = .ok u) :
    u.resp = some ⟨status, value⟩ := by
  cases h
  rfl

/-- A command whose operands are legal reaches a response of status 0 (R106, R109). -/
theorem body_resp {i : Instr} {s u : State} (hi : i.isCommand = true) (hl : ¬ IllegalOperand i)
    (h : body i s = .ok u) : ∃ v, u.resp = some ⟨0#2, v⟩ := by
  cases i with
  | init | startSink | sendMessage | getDeviceId => cases h; exact ⟨_, rfl⟩
  | poll =>
    obtain ⟨v, -, rfl⟩ := body_poll h
    exact ⟨_, rfl⟩
  | sendHeaderMessage type rev =>
    simp only [body, if_pos ((revLegal_eq rev).2 hl)] at h
    cases h
    exact ⟨_, rfl⟩
  | createCtrl type rev =>
    simp only [body, if_pos ((revLegal_eq rev).2 hl)] at h
    exact ⟨_, answered_resp h⟩
  | createData type n rev =>
    obtain ⟨hrev, hn⟩ := not_or.1 hl
    simp only [body, (revLegal_eq rev).2 hrev, (numObjsLegal_eq n).2 hn] at h
    exact ⟨_, answered_resp h⟩
  | popEvent =>
    simp only [body] at h
    split at h <;> exact ⟨_, answered_resp h⟩
  | tokSop1 | tokSop2 | tokPacksym | tokJamCrc | tokEop | tokTxoff | tokTxon | rxTokenSop => cases hi
  | _ => exact ⟨_, answered_resp h⟩

/-- The clock takes nothing from the response. -/
theorem exec_next_resp {i : Instr} {s t : State} (h : exec i s = .next t) :
    ∃ u, body i s = .ok u ∧ t.resp = u.resp := by
  obtain ⟨u, hu, ht⟩ := exec_next h
  exact ⟨u, hu, by rw [ht]⟩

theorem exec_resp_of_legal {i : Instr} {s t : State} (hi : i.isCommand = true) (hl : ¬ IllegalOperand i)
    (h : exec i s = .next t) : ∃ v, t.resp = some ⟨0#2, v⟩ := by
  obtain ⟨u, hu, hresp⟩ := exec_next_resp h
  exact hresp ▸ body_resp hi hl hu

/-- Settles O6: `exec_of_illegalOperand`, and `body_resp` for every other operand. -/
theorem illegalOperandHasNoEffect : Obligations.IllegalOperandHasNoEffect := fun _ s =>
  ⟨fun h => (exec_of_illegalOperand s h).trans (illegalOperand_eq s), fun hi hl _ => exec_resp_of_legal hi hl⟩

/-! ## Responses -/

/-- What R106 asks of every response: status 3 never, value 0 where the status is not 0. -/
def ResponseLegal (r : Response) : Prop := r.status ≠ 3#2 ∧ (r.status ≠ 0#2 → r.value = 0#32)

theorem exec_responds {i : Instr} {s t : State} (hi : i.isCommand = true) (h : exec i s = .next t) :
    ∃ r, t.resp = some r ∧ ResponseLegal r := by
  by_cases hl : IllegalOperand i
  · rw [exec_of_illegalOperand s hl, illegalOperand_eq] at h
    cases h
    exact ⟨_, rfl, by decide, fun _ => rfl⟩
  · obtain ⟨v, hv⟩ := exec_resp_of_legal hi hl h
    exact ⟨_, hv, (by decide : (0#2 : BitVec 2) ≠ 3#2), fun h0 => absurd rfl h0⟩

theorem step_command_responds {s t : State} {w : Word} {payload : Vector Byte 28} {rest : List Request}
    (hin : s.inbox = .command w payload :: rest) (h : step s = .next t) :
    ∃ r, t.resp = some r ∧ ResponseLegal r := by
  cases hd : decodeCommand w with
  | ok i =>
    rw [step_of_decode hin hd] at h
    exact exec_responds (isCommand_of_decode hd) h
  | error e =>
    rw [refused_of_decode_error hd s payload rest hin] at h
    cases h
    exact ⟨_, rfl, by decide, fun _ => rfl⟩

/-- Settles O7: `step_command_responds`, and the bodies of the commands that return nothing. -/
theorem everyCommandResponds : Obligations.EveryCommandResponds := by
  refine ⟨fun s t w payload rest hin h => step_command_responds hin h, fun i s t h hi => ?_⟩
  obtain ⟨u, hu, hresp⟩ := exec_next_resp h
  rw [hresp]
  rcases hi with rfl | rfl | rfl | ⟨header, rfl⟩ | ⟨type, rev, hrev, rfl⟩
  · cases hu; rfl
  · cases hu; rfl
  · obtain ⟨v, -, rfl⟩ := body_poll hu
    rfl
  · cases hu; rfl
  · simp only [body, if_pos ((revLegal_eq rev).2 hrev)] at hu
    cases hu
    rfl

/-! ## Lone tokens -/

/-- A token as a step of the framer where a place is left in `tx_buf` (R252, log 6). -/
theorem emitToken_of_lt {s : State} (b : Byte) (h : s.txPos < 40) : emitToken b s = .next (s.begin.emitByte b) :=
  (if_pos h).trans (complete_of_no_wire _ (by simp) (by simp))

/-- Past the 40 bytes of `tx_buf` (R60, log 9). -/
theorem emitToken_of_ge {s : State} (b : Byte) (h : 40 ≤ s.txPos) : emitToken b s = .fault .txBufferEnd :=
  if_neg (Nat.not_lt.2 h)

/-- `tx_buf` with one byte appended to the stream (R252). -/
theorem txByte_emitByte (s : State) (b : Byte) (a : Nat) :
    (s.emitByte b).txByte a = if a = s.txPos then b else s.txByte a := by
  simp only [State.txByte, State.emitByte_fields, Memory.read_write]
  split <;> rfl

/-- The PACKSYM byte in numbers (R121). -/
theorem packsymByte_eq (len : BitVec 5) : packsymByte len = BitVec.ofNat 8 (128 + len.toNat) := by
  revert len
  decide

/-- Settles O47: each token's meaning is `emitToken` of its byte. -/
theorem tokensAppend : Obligations.TokensAppend := by
  intro s i b htok
  have hemit : exec i s = emitToken b s := by
    rcases htok with hmem | ⟨len, rfl, rfl⟩
    · simp only [List.mem_cons, List.not_mem_nil, or_false, Prod.mk.injEq] at hmem
      obtain ⟨rfl, rfl⟩ | ⟨rfl, rfl⟩ | ⟨rfl, rfl⟩ | ⟨rfl, rfl⟩ | ⟨rfl, rfl⟩ | ⟨rfl, rfl⟩ := hmem <;> rfl
    · rw [← packsymByte_eq]
      rfl
  rw [hemit]
  refine ⟨fun h => ⟨_, emitToken_of_lt b h, rfl, ?_, fun a ha => ?_⟩, emitToken_of_ge b⟩
  · exact (txByte_emitByte s.begin b _).trans (if_pos rfl)
  · exact (txByte_emitByte s.begin b a).trans (if_neg ha)

/-- One frame changes only what a drain may change (R222 to R233). -/
theorem deframe_drainFrame (s : State) : DrainFrame s (deframe s).2 := by
  unfold DrainFrame
  apply State.ext <;> simp

/-- Appending what fits in `n` places is appending everything and keeping `n` (the queue's six, R141). -/
theorem map_append_take {α β : Type} (g : α → β) {q es : List α} {n : Nat} (hq : q.length ≤ n) :
    (q ++ es.take (n - q.length)).map g = (q.map g ++ es.map g).take n := by
  rw [List.map_append, List.map_take, List.take_append, List.length_map,
    List.take_of_length_le (l := q.map g) (by rwa [List.length_map])]

/-- The events of one frame as a drain shows them (R231, R232). -/
theorem map_shown_acceptedEvents (f : RxFrame) {s t : State} (ha : t.attach = s.attach) (hidx : t.rxIdx = s.rxIdx) :
    (if f.accepted then acceptedEvents f.header t else []).map Event.shown
      = pushedByDrain s ([f].filter RxFrame.accepted) := by
  have hslot : s.rxIdx.toNat % 4 = s.rxIdx.toNat := Nat.mod_eq_of_lt s.rxIdx.isLt
  cases hacc : f.accepted with
  | false => simp [hacc, pushedByDrain]
  | true =>
    by_cases hp : s.attach = .usbPd <;>
      simp [hacc, pushedByDrain, acceptedEvents, Event.shown, ha, hidx, hp, f.header_toNat, hslot]

section
variable {s : State} {f : RxFrame} (hq : s.evq.length ≤ 6) (hf : f.sop = true)
  (hv : Input.values Config.freeChipByte (f.body.length + 4) s.chipIn
    = f.token :: f.low :: f.high :: f.body ++ [f.status0])
include hq hf hv

/-- Where the chip returns an SOP frame next, the deframer does what a drain of that frame alone does (R225 to R232). -/
theorem deframe_drainEffect : DrainEffect s (deframe s).2 [f] := by
  obtain ⟨-, he, hdata, hlen⟩ := deframe_sop hf hv
  obtain ⟨ha, ht, hidx, hring, -, -, -, hevq, -, -⟩ :=
    judgeFrame_effect f (frameStored f.header (s.regRead regFifos 3)) (by simpa using hq)
  rw [he]
  refine ⟨?_, ?_, ?_, ?_, fun slot offset ho => ?_⟩
  · rw [ha]
    cases hacc : f.accepted <;> simp [hacc]
  · rw [ht]
    cases hacc : f.accepted <;> simp [hacc]
  · rw [hevq, map_append_take _ (by simpa using hq), map_shown_acceptedEvents f (s := s) (by simp) (by simp)]
    simp
  · rw [hidx]
    cases hacc : f.accepted <;> simp [hacc]
  · have hbody : f.body.length ≤ 64 := by
      have hle := payloadLength_le f.header
      omega
    exact State.ringByte_writeList f.body hbody (hring.trans (by simp [hdata])) slot offset ho

/-- Its transactions: token and header, payload and CRC, STATUS0 (R222). -/
theorem deframe_transactions : transactions (deframe s).2.trace = transactions s.trace ++
    [.read 0x43#8 3, .read 0x43#8 (4 * f.objects + 4), .read 0x40#8 1] := by
  obtain ⟨-, he, -, -⟩ := deframe_sop hf hv
  obtain ⟨-, -, -, -, -, -, -, -, htrans, -⟩ :=
    judgeFrame_effect f (frameStored f.header (s.regRead regFifos 3)) (by simpa using hq)
  rw [he, htrans]
  simp only [transactions, frameStored_fields, State.regRead_doings, f.payloadLength_header, List.append_assoc,
    List.filter_append]
  rfl

end

/-- A byte in numbers as 111 above its five free bits (R124). -/
theorem token_eq_append {token : Byte} {low : BitVec 5} (h : token.toNat = 224 + low.toNat) :
    token = 0b111#3 ++ low := by
  have hbyte : ∀ low : BitVec 5, (0b111#3 ++ low).toNat = 224 + low.toNat := by decide
  exact BitVec.eq_of_toNat_eq (h.trans (hbyte low).symm)

/-- Settles O48: the token is put in front of the chip's bytes, and one frame is deframed. -/
theorem frameTokenReceives : Obligations.FrameTokenReceives := by
  refine ⟨fun s low hs => ⟨_, exec_of_body rfl hs, ?_, by simp⟩, fun s low f hs hq hf htok hv => ?_⟩
  · exact deframe_drainFrame (s.begin.presentToken (0b111#3 ++ low))
  · have hv' : Input.values Config.freeChipByte (f.body.length + 4) (s.begin.presentToken (0b111#3 ++ low)).chipIn
        = f.token :: f.low :: f.high :: f.body ++ [f.status0] := token_eq_append htok ▸ hv
    exact ⟨_, exec_of_body rfl hs, deframe_drainEffect hq hf hv', deframe_transactions hq hf hv'⟩

end Sys2Proof.Proofs
end

section
/-! Event queue (40_event_queue.md): what the queue's commands answer, the order of its events, and the generations of the
RX slots. -/

namespace Sys2Proof.Proofs

open Sys2Proof.Machine Sys2Proof.Statements

/-! ## Slots and generations (section 4) -/

/-- No counter of a slot goes back, and a slot whose counter stands keeps its 64 bytes (R151). -/
def SlotsKept (s t : State) : Prop :=
  ∀ k, s.generation k ≤ t.generation k ∧
    (t.generation k = s.generation k → ∀ o, o < 64 → t.ringByte k o = s.ringByte k o)

/-- What every part of a step does to slots and queued handles (R151). -/
def HandlesKept (s t : State) : Prop := SlotsKept s t ∧ (HandlesInv s → HandlesInv t)

theorem SlotsKept.trans {s t u : State} (hst : SlotsKept s t) (htu : SlotsKept t u) : SlotsKept s u := by
  intro k
  obtain ⟨hgen, hbytes⟩ := hst k
  obtain ⟨hgen', hbytes'⟩ := htu k
  refine ⟨Nat.le_trans hgen hgen', fun hsame o ho => ?_⟩
  rw [hbytes' (by omega) o ho, hbytes (by omega) o ho]

theorem HandlesKept.trans {s t u : State} (hst : HandlesKept s t) (htu : HandlesKept t u) : HandlesKept s u :=
  ⟨hst.1.trans htu.1, htu.2 ∘ hst.2⟩

theorem slotsKept_congr {s t : State} (hring : t.rxRing = s.rxRing) (hgen : t.slotGen = s.slotGen) : SlotsKept s t :=
  fun k => ⟨Nat.le_of_eq (State.generation_congr hgen k).symm, fun _ o _ => State.ringByte_congr hring k o⟩

/-- Where each queued handle was queued before or names a generation its slot has reached, the handles are kept. -/
theorem handlesKept_of_mem {s t : State} (hslots : SlotsKept s t)
    (hevq : ∀ h k g, .messageReceived h k g ∈ t.evq → .messageReceived h k g ∈ s.evq ∨ g ≤ t.generation k) :
    HandlesKept s t := by
  refine ⟨hslots, fun hs h k g hmem => ?_⟩
  rcases hevq h k g hmem with hold | hnew
  · exact Nat.le_trans (hs h k g hold) (hslots k).1
  · exact hnew

/-- An operation that leaves the slots alone and queues no handle; the rules of the state's updates say so. -/
theorem handlesKept_congr {s t : State} (hring : t.rxRing = s.rxRing := by simp) (hgen : t.slotGen = s.slotGen := by simp)
    (hevq : ∀ h k g, .messageReceived h k g ∈ t.evq → .messageReceived h k g ∈ s.evq := by simp) : HandlesKept s t :=
  handlesKept_of_mem (slotsKept_congr hring hgen) fun h k g hmem => .inl (hevq h k g hmem)

/-! ### The receive path -/

/-- A frame is written to one slot, whose counter moves on; the other slots stand (R225, R151). -/
theorem frameStored_handlesKept (h : Header) (s : State) : HandlesKept s (frameStored h s) := by
  have hgen := State.generation_set (s := s) (t := frameStored h s) (slot := s.rxIdx) (by simp)
  have hlen : (s.readData (payloadLength h + 4)).length ≤ 64 := by
    have hpayload := payloadLength_le h
    simp only [State.readData, Input.length_values]
    omega
  refine handlesKept_of_mem (fun k => ?_) (by simp +contextual)
  rw [hgen k]
  by_cases hk : k = s.rxIdx
  · simp [hk]
  · refine ⟨by simp [hk], fun _ o ho => ?_⟩
    rw [State.ringByte_writeList (s := s) (slot := s.rxIdx) _ hlen (by simp) k o ho, if_neg fun hw => hk hw.1]

theorem mem_push {s : State} {e x : Event} (hmem : x ∈ (s.push e).evq) : x ∈ s.evq ∨ x = e := by
  simp only [State.push_fields] at hmem
  split at hmem
  · exact .inl hmem
  · simpa using hmem

/-- Entry into `UsbPd` queues no handle (R231). -/
theorem mem_enterUsbPd {s : State} {h : Header} {k : BitVec 2} {g : Nat}
    (hmem : .messageReceived h k g ∈ (enterUsbPd s).evq) : .messageReceived h k g ∈ s.evq := by
  unfold enterUsbPd at hmem
  split at hmem
  · exact hmem
  · exact (mem_push hmem).resolve_right nofun

/-- The handle an accepted frame queues carries the generation its slot has then (R232, R151). -/
theorem acceptFrame_handlesKept (h : Header) (s : State) : HandlesKept s (acceptFrame h s) := by
  refine handlesKept_of_mem (slotsKept_congr (by simp) (by simp)) fun h' k g hmem => ?_
  rcases mem_push hmem with hold | hnew
  · exact .inl (mem_enterUsbPd hold)
  · cases hnew
    exact .inr (Nat.le_of_eq (State.generation_congr (by simp) _).symm)

/-- One frame is dropped or stored; the verdict on a stored one keeps the slots (R222 to R233). -/
theorem deframe_handlesKept (s : State) : HandlesKept s (deframe s).2 := by
  have stored : ∀ h, HandlesKept s (frameStored h (s.regRead regFifos 3)) := fun h =>
    HandlesKept.trans handlesKept_congr (frameStored_handlesKept h _)
  rcases deframe_cases s with e | ⟨h, e | e | e⟩ <;> rw [e]
  · unfold dropNonSop
    exact handlesKept_congr
  · exact stored h
  · exact (stored h).trans handlesKept_congr
  · exact (stored h).trans (acceptFrame_handlesKept h _)

theorem drain_handlesKept {k : Nat} {s t : State} (h : drain k s = .ok t) : HandlesKept s t :=
  drain_induct (P := HandlesKept s) (fun _ hu => hu.trans handlesKept_congr)
    (fun u hu => hu.trans (deframe_handlesKept u)) h handlesKept_congr

/-! ### Instructions and steps -/

theorem startSinkBody_handlesKept (s : State) : HandlesKept s (startSinkBody s) := by
  unfold startSinkBody
  exact handlesKept_congr

/-- Every way a POLL can end: only a drain writes a slot or queues a handle (R201, R220). -/
theorem pollEnd_handlesKept {s u : State} (h : PollEnd s u) : HandlesKept s u := by
  cases h with
  | drained _ hd => exact HandlesKept.trans handlesKept_congr (drain_handlesKept hd)
  | retry => exact HandlesKept.trans handlesKept_congr (startSinkBody_handlesKept _)
  | hardReset =>
    unfold passedHardReset
    exact handlesKept_congr
  | _ => exact handlesKept_congr

/-- A response moves neither slots nor queue (R106). -/
theorem respond_handlesKept (status : BitVec 2) (value : Word) {s u : State} (h : HandlesKept s u) :
    HandlesKept s (u.respond status value) := h

theorem answered_handlesKept {status : BitVec 2} {value : Word} {s u : State} (h : answered status value s = .ok u) :
    HandlesKept s u := by
  cases h
  exact handlesKept_congr

/-- SEND_MESSAGE moves the framer, the bus and the message ID only (R250). -/
theorem sendMessageBody_handlesKept {header : Header} {payload : List Byte} {s : State}
    (hp : payload.length = payloadLength header) : HandlesKept s (sendMessageBody header payload s) := by
  obtain ⟨-, -, -, -, -, -, -, hring, -, hevq, -, -, -, -, hgen, -⟩ := sendMessageBody_fields header payload s hp
  exact handlesKept_congr hring hgen (by simp [hevq])

/-- A lone TX token moves the framer only (log 6). -/
theorem tokenBody_handlesKept {b : Byte} {s u : State} (h : tokenBody b s = .ok u) : HandlesKept s u := by
  unfold tokenBody at h
  split at h
  · cases h
    exact handlesKept_congr
  · cases h

/-- Every instruction's body. -/
theorem body_handlesKept {i : Instr} {s u : State} (h : body i s = .ok u) : HandlesKept s u := by
  have hbegin : HandlesKept s s.begin := handlesKept_congr
  cases i with
  | init | getDeviceId => cases h; exact handlesKept_congr
  | startSink => cases h; exact respond_handlesKept _ _ (hbegin.trans (startSinkBody_handlesKept _))
  | poll =>
    obtain ⟨v, hv, rfl⟩ := body_poll h
    exact respond_handlesKept _ _ (hbegin.trans (pollEnd_handlesKept hv))
  | sendMessage header =>
    cases h
    exact respond_handlesKept _ _
      (hbegin.trans (sendMessageBody_handlesKept (payloadOperand_length header s.payloadPort)))
  | sendHeaderMessage type rev =>
    simp only [body] at h
    split at h
    · cases h
      exact respond_handlesKept _ _ (hbegin.trans (sendMessageBody_handlesKept (createCtrl_payloadLength type rev).symm))
    · exact answered_handlesKept h
  | popEvent =>
    simp only [body] at h
    split at h
    · exact answered_handlesKept h
    next e rest he =>
      have hpopped : HandlesKept s (s.popped e rest) := handlesKept_congr (hevq := by simp +contextual [he])
      exact hpopped.trans (answered_handlesKept h)
  | createCtrl | createData =>
    simp only [body] at h
    split at h <;> exact answered_handlesKept h
  | tokSop1 | tokSop2 | tokPacksym | tokJamCrc | tokEop | tokTxoff | tokTxon => exact tokenBody_handlesKept h
  | rxTokenSop low => cases h; exact HandlesKept.trans handlesKept_congr (deframe_handlesKept _)
  | _ => exact answered_handlesKept h

theorem step_handlesKept {s t : State} (h : step s = .next t) : HandlesKept s t :=
  step_keeps (P := HandlesKept s) (fun _ _ _ hu => hu.trans handlesKept_congr) (fun _ _ _ _ _ hu => hu)
    (fun _ _ _ hb hu => hu.trans (body_handlesKept hb))
    (fun _ _ hu => (hu.trans handlesKept_congr).trans (deframe_handlesKept _)) h handlesKept_congr

/-! ## POP_EVENT (R147) -/

/-- The value of an event in numbers (R107, R147). -/
theorem eventValue_eq (e : Event) : eventValue e = BitVec.ofNat 32 (popValue e) := by
  cases e with
  | stateChanged => rfl
  | messageReceived h k g =>
    have hheader : (zext32 h <<< 16).toNat = 2 ^ 16 * h.toNat := by
      have hlt := h.isLt
      rw [zext32, BitVec.toNat_shiftLeft, BitVec.toNat_setWidth, Nat.shiftLeft_eq]
      omega
    have hlow : ∀ k : BitVec 2, (zext32 k <<< 4 ||| 0x5#32).toNat = k.toNat * 16 + 5 := by decide
    have hk := k.isLt
    have hh := h.isLt
    apply BitVec.eq_of_toNat_eq
    rw [eventValue, BitVec.or_assoc, BitVec.toNat_or, hheader, hlow, ← Nat.two_pow_add_eq_or_of_lt (by omega),
      popValue, BitVec.toNat_ofNat]
    omega

theorem exec_popEvent_nil {s : State} (h : s.evq = []) :
    exec .popEvent s = .next { s with trace := [], wire := [], resp := some ⟨0#2, 0#32⟩ } := by
  have hanswer : exec .popEvent s = answer 0#2 0#32 s := by simp only [exec, execPopEvent, h]
  exact hanswer.trans (answer_eq ..)

theorem exec_popEvent_cons {s : State} {e : Event} {rest : List Event} (h : s.evq = e :: rest) :
    exec .popEvent s = .next { s with
      evq := rest, held := noteHeld s.held e, trace := [], wire := [],
      resp := some ⟨0#2, BitVec.ofNat 32 (popValue e)⟩ } := by
  have hanswer : exec .popEvent s = answer 0#2 (eventValue e) (s.popped e rest) := by simp only [exec, execPopEvent, h]
  rw [hanswer, eventValue_eq]
  exact answer_eq ..

/-- The handle of a popped event is the host's (R151). -/
theorem noteHeld_getElem (held : Vector (Option Nat) 4) (h : Header) (k : BitVec 2) (g : Nat) :
    (noteHeld held (.messageReceived h k g))[k.toNat] = some g := by
  simp [noteHeld]

/-- Settles O21: `step_handlesKept`, and for the popped handle the step that runs POP_EVENT. -/
theorem slotBytesStandWhileGenerationStands : Obligations.SlotBytesStandWhileGenerationStands := by
  intro s t hstep
  obtain ⟨hslots, hhandles⟩ := step_handlesKept hstep
  refine ⟨hslots, hhandles, fun h k g rest payload requests hevq hin => ?_⟩
  rw [step_of_decode (i := .popEvent) hin rfl, exec_popEvent_cons (by simpa using hevq)] at hstep
  cases hstep
  exact noteHeld_getElem _ h k g

/-! ## The order of the queue (R142) -/

/-- The response POP_EVENT gives for an event (R147). -/
def popReply (e : Event) : Option Response := some ⟨0#2, BitVec.ofNat 32 (popValue e)⟩

theorem exec_popEvent_reply {s : State} {e : Event} {rest : List Event} (h : s.evq = e :: rest) :
    ∃ t, exec .popEvent s = .next t ∧ t.resp = popReply e ∧ t.evq = rest :=
  ⟨_, exec_popEvent_cons h, rfl, rfl⟩

/-- An event is never answered as an empty queue is (R107). -/
theorem popReply_ne_empty (e : Event) : popReply e ≠ some ⟨0#2, 0#32⟩ := by
  have hvalue : BitVec.ofNat 32 (popValue e) ≠ 0#32 := by
    cases e with
    | stateChanged => decide
    | messageReceived h k g => simp only [popValue]; bv_omega
  simpa [popReply] using hvalue

/-- Pushes fill the places left, in order (R141, R142). -/
theorem pushAll_evq (es : List Event) {s : State} (hq : s.evq.length ≤ 6) :
    (pushAll s es).evq = s.evq ++ es.take (6 - s.evq.length) := by
  induction es generalizing s with
  | nil => simp [pushAll]
  | cons e es ih =>
    have hpush : (s.push e).evq = if s.evq.length = 6 then s.evq else s.evq ++ [e] := by simp
    show (pushAll (s.push e) es).evq = _
    split at hpush
    next hfull => rw [ih (by rwa [hpush]), hpush, hfull]; rfl
    next hroom =>
      have hplaces : 6 - s.evq.length = (6 - (s.evq.length + 1)) + 1 := by omega
      rw [ih (by rw [hpush, List.length_append, List.length_singleton]; omega), hpush, List.length_append,
        List.length_singleton, hplaces, List.take_succ_cons, List.append_assoc]
      rfl

/-- As many POP_EVENTs as events are queued answer them in order and leave none. -/
theorem popMany_evq {q : List Event} {s : State} (h : s.evq = q) :
    (popMany q.length s).1 = q.map popReply ∧ (popMany q.length s).2.evq = [] := by
  induction q generalizing s with
  | nil => exact ⟨rfl, h⟩
  | cons e q ih =>
    obtain ⟨t, ht, hresp, hrest⟩ := exec_popEvent_reply h
    obtain ⟨hreplies, hempty⟩ := ih hrest
    simp only [List.length_cons, popMany, ht, hresp, hreplies, hempty, List.map_cons, and_self]

theorem queueRun_pop {s t : State} (h : exec .popEvent s = .next t) (ops : List QueueOp) :
    queueRun (.pop :: ops) s = (t.resp :: (queueRun ops t).1, (queueRun ops t).2) := by
  simp only [queueRun, h]

/-- Every POP_EVENT of a sequence answers (R147). -/
theorem queueRun_length (ops : List QueueOp) (s : State) :
    (queueRun ops s).1.length = ops.countP QueueOp.isPop := by
  induction ops generalizing s with
  | nil => rfl
  | cons op ops ih =>
    cases op with
    | push e => exact (ih _).trans (List.countP_cons_of_neg Bool.false_ne_true).symm
    | pop =>
      rw [List.countP_cons_of_pos rfl]
      cases hq : s.evq with
      | nil => rw [queueRun_pop (exec_popEvent_nil hq), List.length_cons, ih]
      | cons e rest => rw [queueRun_pop (exec_popEvent_cons hq), List.length_cons, ih]

/-- The events answered, then those still queued, are those queued at first, then the accepted pushes (R142). -/
theorem queueRun_order (ops : List QueueOp) (s : State) :
    (queueRun ops s).1.filter (· ≠ some ⟨0#2, 0#32⟩) ++ (queueRun ops s).2.evq.map popReply
      = (s.evq ++ acceptedPushes ops s.evq.length).map popReply := by
  induction ops generalizing s with
  | nil => simp [queueRun, acceptedPushes]
  | cons op ops ih =>
    cases op with
    | push e =>
      simp only [queueRun, ih, State.push_fields, acceptedPushes]
      split <;> simp
    | pop =>
      cases hq : s.evq with
      | nil =>
        rw [queueRun_pop (exec_popEvent_nil hq), List.filter_cons_of_neg (by simp), ih]
        simp only [hq]
        rfl
      | cons e rest =>
        obtain ⟨t, ht, hresp, hrest⟩ := exec_popEvent_reply hq
        rw [queueRun_pop ht, hresp, List.filter_cons_of_pos (by simpa using popReply_ne_empty e), List.cons_append, ih,
          hrest]
        rfl

/-- Where all the pushes of a sequence find a place, all are accepted (R141). -/
theorem acceptedPushes_of_le {ops : List QueueOp} {n : Nat} (h : n + (ops.filterMap QueueOp.pushed).length ≤ 6) :
    acceptedPushes ops n = ops.filterMap QueueOp.pushed := by
  induction ops generalizing n with
  | nil => rfl
  | cons op ops ih =>
    cases op with
    | push e =>
      have hpushed : (QueueOp.push e :: ops).filterMap QueueOp.pushed = e :: ops.filterMap QueueOp.pushed := rfl
      rw [hpushed, List.length_cons] at h
      rw [acceptedPushes, if_neg (by omega), ih (by omega), hpushed]
    | pop =>
      have hpushed : (QueueOp.pop :: ops).filterMap QueueOp.pushed = ops.filterMap QueueOp.pushed := rfl
      rw [hpushed] at h
      rw [acceptedPushes, ih (by omega), hpushed]

/-- Settles O18: `pushAll_evq` and `popMany_evq` for pushes alone, `queueRun_order` for any mixture. -/
theorem queueKeepsOrder : Obligations.QueueKeepsOrder := by
  refine ⟨fun s es hempty => ?_, fun s ops => ?_⟩
  · have hq : (pushAll s es).evq = es.take 6 := by simpa [hempty] using pushAll_evq es (s := s) (by simp [hempty])
    have hlen : min es.length 6 = (es.take 6).length := by rw [List.length_take, Nat.min_comm]
    rw [hlen]
    exact ⟨hq, popMany_evq hq⟩
  · refine ⟨queueRun_length ops s, queueRun_order ops s, fun hempty hle => ?_⟩
    have horder := queueRun_order ops s
    rwa [hempty, List.length_nil, acceptedPushes_of_le (by omega), List.nil_append] at horder

/-! ## The queue's commands -/

/-- Where every row of an opcode has this mask, a word of the opcode with a bit of the mask set is no legal word (R101,
R103, R108). -/
theorem reservedRefused_of_row {opcode : Byte} {mask : Word}
    (hrows : (commandRows.all fun row => row.1 != opcode || row.2 == mask) = true) : ReservedRefused opcode mask := by
  refine fun w hopcode hreserved => refused_of_not_legalWord fun ⟨row, hmem, ho, hclear⟩ => hreserved ?_
  rcases Bool.or_eq_true_iff.1 (List.all_eq_true.1 hrows row hmem) with hother | hmask
  · exact absurd (ho.symm.trans hopcode) (bne_iff_ne.1 hother)
  · rwa [beq_iff_eq.1 hmask] at hclear

/-- Settles O19: the byte of the slot is the one last written there or the one it holds from power-on. -/
theorem readRxByteResult : Obligations.ReadRxByteResult := by
  refine ⟨decode_encodeX decodeCommand_readRxByte, reservedRefused_of_row (by decide), fun slot offset s => ?_⟩
  have answers : Answers (.readRxByte slot offset) s 0#2 (BitVec.ofNat 32 (s.ringByte slot offset.toNat).toNat) := by
    rw [BitVec.ofNat_toNat]
    exact answer_eq ..
  refine ⟨fun b hread => ?_, fun _ => ⟨_, answers⟩⟩
  have hbyte : s.ringByte slot offset.toNat = b := congrArg (Option.getD · _) hread
  rwa [hbyte] at answers

/-- Settles O15: both commands only answer, from the queue's length. -/
theorem hasEventAndCountResults : Obligations.HasEventAndCountResults := by
  refine ⟨rfl, rfl, reservedRefused_of_row (by decide), reservedRefused_of_row (by decide), fun s => ?_⟩
  have answers : Answers .hasEvent s 0#2 (if 0 < s.evq.length then 1#32 else 0#32) := answer_eq ..
  refine ⟨fun hempty => ?_, fun hne => ?_, answer_eq ..⟩
  · simpa [hempty] using answers
  · rwa [if_pos (List.length_pos_iff.2 hne)] at answers

/-- Settles O16: `exec_popEvent_nil`, and `exec_popEvent_cons` at each kind of event. -/
theorem popEventResult : Obligations.PopEventResult :=
  ⟨rfl, reservedRefused_of_row (by decide), fun _ =>
    ⟨exec_popEvent_nil, fun _ h => exec_popEvent_cons h, fun _ _ _ _ h => ⟨_, exec_popEvent_cons h, rfl⟩⟩⟩

/-- Settles O17: the two branches of `State.push`. -/
theorem pushEnqueuesOrDrops : Obligations.PushEnqueuesOrDrops :=
  fun _ _ => ⟨fun hroom => if_neg hroom, fun hfull => if_pos hfull⟩

end Sys2Proof.Proofs
end

section
/-! Header codec (41_header_codec.md): the fields of a header and the headers the constructors build, in numbers, and
from them what each codec command answers. -/

namespace Sys2Proof.Proofs

open Sys2Proof.Machine Sys2Proof.Statements

/-! ## The fields of a header (R112) -/

theorem field_toNat (h : Header) (start len : Nat) :
    (h.extractLsb' start len).toNat = h.toNat / 2 ^ start % 2 ^ len := by
  rw [BitVec.extractLsb'_toNat, Nat.shiftRight_eq_div_pow]

theorem typeBits_toNat (h : Header) : (typeBits h).toNat = h.toNat % 32 :=
  (field_toNat h 0 5).trans (congrArg (· % 32) (Nat.div_one h.toNat))

theorem numDataObjs_toNat (h : Header) : (numDataObjs h).toNat = h.toNat / 4096 % 8 := field_toNat h 12 3

theorem messageId_toNat (h : Header) : (messageId h).toNat = h.toNat / 512 % 8 := field_toNat h 9 3

theorem dataRole_toNat (h : Header) : (dataRole h).toNat = h.toNat / 32 % 2 := field_toNat h 5 1

theorem powerRole_toNat (h : Header) : (powerRole h).toNat = h.toNat / 256 % 2 := field_toNat h 8 1

/-- Bit 15 is the top bit, so what lies above it is 0. -/
theorem extended_toNat (h : Header) : (extended h).toNat = h.toNat / 32768 :=
  (field_toNat h 15 1).trans (Nat.mod_eq_of_lt (Nat.div_lt_of_lt_mul h.isLt))

theorem specRev_toNat (h : Header) : (specRev h).toNat = h.toNat / 64 % 4 + 1 := by
  have hadd : ∀ r : BitVec 2, (r.setWidth 8 + 1#8).toNat = r.toNat + 1 := by decide
  exact (hadd _).trans (congrArg (· + 1) (field_toNat h 6 2))

theorem messageType_toNat (h : Header) :
    (messageType h).toNat = if h.toNat / 4096 % 8 = 0 then h.toNat % 32 else 128 + h.toNat % 32 := by
  have hcontrol : ∀ t : BitVec 5, (t.setWidth 8).toNat = t.toNat := by decide
  have hdata : ∀ t : BitVec 5, (0x80#8 ||| t.setWidth 8).toNat = 128 + t.toNat := by decide
  have hcount : numDataObjs h = 0#3 ↔ h.toNat / 4096 % 8 = 0 := by
    rw [← numDataObjs_toNat]
    exact BitVec.toNat_inj.symm
  simp only [messageType, hcount, apply_ite BitVec.toNat, hcontrol, hdata, typeBits_toNat]

/-! ## The headers the constructors build (R161, R162) -/

theorem createCtrl_eq_createData (type : BitVec 5) (rev : BitVec 2) : createCtrl type rev = createData type 0#3 rev :=
  BitVec.or_zero.symm

/-- The three fields of a data header do not overlap. -/
theorem createData_toNat (type : BitVec 5) (n : BitVec 3) (rev : BitVec 2) :
    (createData type n rev).toNat = type.toNat + 64 * (rev - 1#2).toNat + 4096 * n.toNat := by
  have hlow : ∀ (t : BitVec 5) (r : BitVec 2),
      (t.setWidth 16 ||| (r.setWidth 16 <<< 6) : Header).toNat = t.toNat + 64 * r.toNat := by decide
  have hhigh : ∀ n : BitVec 3, (n.setWidth 16 <<< 12 : Header).toNat = 2 ^ 12 * n.toNat := by decide
  have ht := type.isLt
  have hr := (rev - 1#2).isLt
  rw [createData, BitVec.toNat_or, hlow, hhigh, Nat.or_comm, ← Nat.two_pow_add_eq_or_of_lt (by omega)]
  omega

theorem rev_sub_one_toNat {rev : BitVec 2} (h : rev ≠ 0#2) : (rev - 1#2).toNat = rev.toNat - 1 := by bv_omega

theorem createData_toNat_of_rev {type : BitVec 5} {n : BitVec 3} {rev : BitVec 2} (h : rev ≠ 0#2) :
    (createData type n rev).toNat = type.toNat + 64 * (rev.toNat - 1) + 4096 * n.toNat := by
  rw [createData_toNat, rev_sub_one_toNat h]

theorem createCtrl_toNat_of_rev {type : BitVec 5} {rev : BitVec 2} (h : rev ≠ 0#2) :
    (createCtrl type rev).toNat = type.toNat + 64 * (rev.toNat - 1) := by
  rw [createCtrl_eq_createData, createData_toNat_of_rev h]
  rfl

theorem typeBits_createData (type : BitVec 5) (n : BitVec 3) (rev : BitVec 2) :
    typeBits (createData type n rev) = type := by
  apply BitVec.eq_of_toNat_eq
  rw [typeBits_toNat, createData_toNat]
  omega

theorem numDataObjs_createData (type : BitVec 5) (n : BitVec 3) (rev : BitVec 2) :
    numDataObjs (createData type n rev) = n := by
  apply BitVec.eq_of_toNat_eq
  rw [numDataObjs_toNat, createData_toNat]
  omega

theorem specRev_createData {type : BitVec 5} {n : BitVec 3} {rev : BitVec 2} (h : rev ≠ 0#2) :
    specRev (createData type n rev) = rev.setWidth 8 := by
  apply BitVec.eq_of_toNat_eq
  rw [specRev_toNat, createData_toNat_of_rev h, BitVec.toNat_setWidth]
  bv_omega

/-- Settles O13: the constructors' headers have their arguments as fields; bit 7 is the 128 of `messageType_toNat`. -/
theorem codecRoundTrips : Obligations.CodecRoundTrips := by
  refine ⟨fun type rev hrev => ?_, fun type n rev _ hn => ⟨numDataObjs_createData .., ?_⟩, fun h => ?_⟩
  · rw [createCtrl_eq_createData]
    refine ⟨?_, specRev_createData hrev⟩
    rw [messageType, numDataObjs_createData, if_pos rfl, typeBits_createData]
  · rw [messageType, numDataObjs_createData, if_neg hn, typeBits_createData]
  · rw [getLsbD_iff, messageType_toNat, numDataObjs_toNat]
    split <;> omega

/-- Settles O14. -/
theorem goodCrcTest : Obligations.GoodCrcTest := isGoodCrc_iff

/-! ## What the commands answer (R160) -/

/-- A command that answers a value widened to the response answers the value's number (R104). -/
theorem answers_of_toNat {i : Instr} {s : State} {w n : Nat} {v : BitVec w}
    (hexec : exec i s = answer 0#2 (zext32 v) s) (hv : v.toNat = n) : Answers i s 0#2 (BitVec.ofNat 32 n) := by
  have hvalue : zext32 v = BitVec.ofNat 32 n := hv ▸ (BitVec.ofNat_toNat 32 v).symm
  exact hexec.trans (hvalue ▸ answer_eq ..)

theorem answers_of_illegalOperand {i : Instr} (s : State) (h : IllegalOperand i) : Answers i s 2#2 0#32 :=
  (exec_of_illegalOperand s h).trans (illegalOperand_eq s)

theorem exec_createCtrl_of_legal (type : BitVec 5) {rev : BitVec 2} (s : State) (h : rev ≠ 0#2) :
    exec (.createCtrl type rev) s = answer 0#2 (zext32 (createCtrl type rev)) s :=
  if_pos ((revLegal_eq rev).2 h)

theorem exec_createData_of_legal (type : BitVec 5) {n : BitVec 3} {rev : BitVec 2} (s : State) (h : rev ≠ 0#2)
    (hn : n ≠ 0#3) : exec (.createData type n rev) s = answer 0#2 (zext32 (createData type n rev)) s :=
  if_pos (Bool.and_eq_true_iff.2 ⟨(revLegal_eq rev).2 h, (numObjsLegal_eq n).2 hn⟩)

/-- Settles O10: `exec_of_illegalOperand` at revision 0, `createCtrl_toNat_of_rev` at every other. -/
theorem createCtrlResult : Obligations.CreateCtrlResult :=
  ⟨fun type rev => decodeOfEncode (.createCtrl type rev), reservedRefused_of_row (by decide), fun type rev s =>
    ⟨answers_of_illegalOperand (i := .createCtrl type rev) s, fun hrev =>
      answers_of_toNat (exec_createCtrl_of_legal type s hrev) (createCtrl_toNat_of_rev hrev)⟩⟩

/-- Settles O11: `exec_of_illegalOperand` at revision 0 or count 0, `createData_toNat_of_rev` at every other operand. -/
theorem createDataResult : Obligations.CreateDataResult :=
  ⟨fun type n rev => decodeOfEncode (.createData type n rev), reservedRefused_of_row (by decide), fun type n rev s =>
    ⟨answers_of_illegalOperand (i := .createData type n rev) s, fun hrev hn =>
      answers_of_toNat (exec_createData_of_legal type s hrev hn) (createData_toNat_of_rev hrev)⟩⟩

theorem reservedRefused_of_hdr : ∀ opcode ∈ [0x12#8, 0x13#8, 0x14#8, 0x15#8, 0x16#8, 0x17#8, 0x18#8],
    ReservedRefused opcode 0xFF000000#32 := by
  have hrows : ∀ opcode ∈ [0x12#8, 0x13#8, 0x14#8, 0x15#8, 0x16#8, 0x17#8, 0x18#8],
      (commandRows.all fun row => row.1 != opcode || row.2 == 0xFF000000#32) = true := by decide
  exact fun opcode hmem => reservedRefused_of_row (hrows opcode hmem)

/-- Settles O12: each command answers one field of its header, which the `toNat` lemma of the field gives in numbers. -/
theorem headerFieldResults : Obligations.HeaderFieldResults :=
  ⟨fun header =>
    ⟨decodeOfEncode (.hdrMessageType header), decodeOfEncode (.hdrNumDataObjs header),
      decodeOfEncode (.hdrSpecRev header), decodeOfEncode (.hdrMessageId header), decodeOfEncode (.hdrExtended header),
      decodeOfEncode (.hdrDataRole header), decodeOfEncode (.hdrPowerRole header)⟩,
    reservedRefused_of_hdr,
    fun header _ =>
    ⟨answers_of_toNat rfl (messageType_toNat header), answers_of_toNat rfl (numDataObjs_toNat header),
      answers_of_toNat rfl (specRev_toNat header), answers_of_toNat rfl (messageId_toNat header),
      answers_of_toNat rfl (extended_toNat header), answers_of_toNat rfl (dataRole_toNat header),
      answers_of_toNat rfl (powerRole_toNat header)⟩⟩

/-- Settles O9: an illegal operand is answered in every state alike, and a legal one by a value of the operands. -/
theorem codecCommandsArePure : Obligations.CodecCommandsArePure := by
  intro i hi
  by_cases hillegal : IllegalOperand i
  · exact ⟨_, _, fun s => answers_of_illegalOperand s hillegal⟩
  cases i with
  | createCtrl type rev => exact ⟨_, _, fun s => answers_of_toNat (exec_createCtrl_of_legal type s hillegal) rfl⟩
  | createData type n rev =>
    obtain ⟨hrev, hn⟩ := not_or.1 hillegal
    exact ⟨_, _, fun s => answers_of_toNat (exec_createData_of_legal type s hrev hn) rfl⟩
  | hdrMessageType | hdrNumDataObjs | hdrSpecRev | hdrMessageId | hdrExtended | hdrDataRole | hdrPowerRole =>
    exact ⟨_, _, fun _ => answer_eq ..⟩
  | _ => cases hi

end Sys2Proof.Proofs
end

section
/-! Attach state machine (42_attach_fsm.md): what INIT, START_SINK, GET_DEVICE_ID and GET_STATE do, the timer branch of
POLL, the moves of the attach state, and the measured line as an invariant. -/

namespace Sys2Proof.Proofs

open Sys2Proof.Machine Sys2Proof.Statements

/-! ## Samples in a trace -/

/-- A timer started as the last act of a step (R281). -/
theorem timerArmed_of_trace {ms m : Word} {acts : List Act} {t : State} (hactive : t.timerActive = true)
    (htrace : t.trace = acts ++ [.millis m]) (hexp : t.timerExp = m + ms) : TimerArmed ms t :=
  ⟨hactive, m, by rw [htrace, List.getLast?_concat], hexp⟩

/-- Where nothing else delays, the one delay of the bring-up is the delay of the trace (R181, R397). -/
theorem chipBringup_delaysAtLeast {s : State} (h : delays s.trace = []) {acts : List Act} (hacts : delays acts = []) :
    DelaysAtLeast 10 ((chipBringup s).trace ++ acts) := by
  obtain ⟨entry, exit, hdelays, hms⟩ := chipBringup_delays s
  intro a b hmem
  rw [mem_delays, delays_append, hdelays, h, hacts] at hmem
  obtain ⟨rfl, rfl⟩ : a = entry ∧ b = exit := by simpa using hmem
  exact hms

/-- What the bring-up does, in the statements' words (R181). -/
theorem chipBringup_does (s : State) : doings (chipBringup s).trace = doings s.trace ++ bringupDoings :=
  chipBringup_doings s

/-- What `start_measurement(c)` does: the write of SWITCHES0, then the timer's sample (R191). -/
theorem startMeasurement_does (c : Cc) (s : State) :
    doings (startMeasurement c s).trace = doings s.trace ++ [.write 0x02#8 [vSw0Meas c], .millis] := by
  simp only [startMeasurement_fields, doings_append, State.regWrite_doings, List.append_assoc]
  rfl

/-! ## INIT, START_SINK, GET_DEVICE_ID, GET_STATE -/

/-- Settles O22: `initBody_fields` for the frame; the bring-up's laws for the traffic and the delay. -/
theorem initResult : Obligations.InitResult := by
  refine ⟨rfl, reservedRefused_of_row (by decide), fun s hs => ?_⟩
  have hexec := exec_of_body (i := .init) (s := s) rfl hs
  refine ⟨_, hexec, ?_, ?_, ?_, exec_busErrorsRecorded hexec⟩
  · apply State.ext <;> simp
  · exact chipBringup_does s.begin
  · have hdelays := chipBringup_delaysAtLeast (s := s.begin) (acts := []) rfl rfl
    simpa using hdelays

/-- `start_sink_body()` is `start_measurement(1)` with the state moved to `Usb20` (R190). -/
@[simp] theorem startSinkBody_eq (s : State) :
    startSinkBody s = { startMeasurement .cc1 s with attach := .usb20 } := rfl

/-- The timer runs 10 ms from the sample `start_measurement(c)` ends with (R191). -/
theorem startMeasurement_timerArmed (c : Cc) (s : State) : TimerArmed 10#32 (startMeasurement c s) := by
  refine timerArmed_of_trace (acts := (s.regWrite regSwitches0 [vSw0Meas c]).trace) (m := s.millisNow) ?_ ?_ ?_ <;>
    simp [Config.measTimeoutMs]

/-- 300 ms from the sample `enter_pd_wait(c)` ends with (R194). -/
theorem enterPdWait_timerArmed (c : Cc) (s : State) : TimerArmed 300#32 (enterPdWait c s) := by
  refine timerArmed_of_trace (acts := (pdWaitWrites c s.initIntN).trace) (m := s.millisNow) ?_ ?_ ?_ <;>
    simp [Config.pdWaitTimeoutMs]

/-- 500 ms from the sample `enter_retry_wait()` ends with (R196). -/
theorem enterRetryWait_timerArmed (s : State) : TimerArmed 500#32 (enterRetryWait s) := by
  refine timerArmed_of_trace (acts := (chipBringup s).trace) (m := retryStart s) ?_ ?_ ?_ <;>
    simp [Config.retryWaitMs]

/-- A response leaves the timer and the trace alone. -/
theorem respond_timerArmed {ms : Word} {t : State} (status : BitVec 2) (value : Word) (h : TimerArmed ms t) :
    TimerArmed ms (t.respond status value) := h

/-- Settles O24: `startMeasurement_fields` of CC1 in `Usb20`. -/
theorem startSinkResult : Obligations.StartSinkResult := by
  refine ⟨rfl, reservedRefused_of_row (by decide), fun s hs => ?_⟩
  have hexec := exec_of_body (i := .startSink) (s := s) rfl hs
  refine ⟨_, hexec, ?_, ?_, respond_timerArmed _ _ (startMeasurement_timerArmed .cc1 s.begin),
    exec_busErrorsRecorded hexec⟩
  · apply State.ext <;> simp
  · exact startMeasurement_does .cc1 s.begin

/-- Settles O25: one read of one byte, whose draw is the answer. -/
theorem getDeviceIdResult : Obligations.GetDeviceIdResult := by
  refine ⟨rfl, reservedRefused_of_row (by decide), fun s hs => ?_⟩
  have hexec := exec_of_body (i := .getDeviceId) (s := s) rfl hs
  have hvalue : zext32 s.begin.readByte = BitVec.ofNat 32 (s.chipByte 0).toNat := (BitVec.ofNat_toNat ..).symm
  refine ⟨_, hexec, ?_, ?_, exec_busErrorsRecorded hexec⟩
  · apply State.ext <;> simp [hvalue]
  · exact State.regRead_doings s.begin regDeviceId 1

/-- Settles O20: the code of each attach state (R31). -/
theorem getStateResult : Obligations.GetStateResult := by
  refine ⟨rfl, reservedRefused_of_row (by decide), fun s => ?_⟩
  have answers : ∀ a, s.attach = a → Answers .getState s 0#2 (zext32 (attachCode a)) := by
    rintro _ rfl
    exact answer_eq ..
  exact ⟨answers .usb20, answers .usbPdWait, answers .usbPd, answers .usbRetryWait⟩

/-! ## The timer branch of POLL (R201) -/

/-- Nothing to act on: the timer has not expired, or it has in `UsbPd` (R201). -/
theorem pollTimer_idle {s : State} (h : ¬ Expired s ∨ s.attach = .usbPd) : pollTimer s = .ok s.afterTimerCheck := by
  by_cases he : Expired s
  · have ha : s.attach = .usbPd := h.resolve_left (not_not_intro he)
    rw [pollTimer_expired he, State.afterTimerCheck_active he.1]
    simp only [onExpiry, State.sampleMillis_fields, ha]
  · exact pollTimer_not_expired he

/-- The timer test looks at the counter, which an INT_N sample leaves alone. -/
theorem expired_sampleIntN (s : State) : Expired s.sampleIntN ↔ Expired s := Iff.rfl

/-- Outside `Usb20` with INT_N high an expired timer is acted on after both samples (R201). -/
theorem pollBody_onExpiry {s : State} (ha : s.attach ≠ .usb20) (hi : s.intNLow = false) (he : Expired s) :
    pollBody s = onExpiry s.sampleIntN.sampleMillis := by
  rw [pollBody_timer ha hi, pollTimer_expired ((expired_sampleIntN s).2 he)]

/-- A POLL with nothing to act on ends in its samples (R201, R283). -/
theorem pollBody_idle {s : State} (hi : s.attach = .usb20 ∨ s.intNLow = false) (h : ¬ Expired s ∨ s.attach = .usbPd) :
    pollBody s = .ok (if s.attach = .usb20 then s else s.sampleIntN).afterTimerCheck := by
  by_cases ha : s.attach = .usb20
  · rw [pollBody_usb20 ha, if_pos ha, pollTimer_idle h]
  · rw [pollBody_timer ha (hi.resolve_left ha), if_neg ha, pollTimer_idle (s := s.sampleIntN) h]

/-- A POLL without traffic ends whatever the clock does (R341). -/
theorem execPoll_of_no_wire {s t : State} (h : pollBody s.begin = .ok t) (hw : t.wire = [])
    (hh : t.sclHold = s.sclHold) : exec .poll s = .next (t.respond 0#2 0#32) := by
  rw [exec_eq, body, h]
  exact complete_of_no_wire _ hw hh

/-- What the timer test takes where the timer runs (R283, R284). -/
theorem afterTimerCheck_eq (s : State) : s.afterTimerCheck = { s with
    trace := s.trace ++ (if s.timerActive then [.millis s.millisNow] else [])
    millisIn := if s.timerActive then s.millisIn.next else s.millisIn
    lastMillis := if s.timerActive then some s.millisNow else s.lastMillis } := by
  cases h : s.timerActive <;> apply State.ext <;> simp [State.afterTimerCheck, h]

/-- Settles O26: `pollBody_idle`, and each sample where it is taken. -/
theorem pollWithNothingToDo : Obligations.PollWithNothingToDo := by
  intro s hi h
  have hpoll := pollBody_idle (s := s.begin) hi h
  rw [execPoll_of_no_wire hpoll (by split <;> simp) (by split <;> simp), afterTimerCheck_eq]
  by_cases ha : s.attach = .usb20
  · simp only [State.begin_fields, ha, if_true]
    rfl
  · have hlow : s.intNLow = false := hi.resolve_left ha
    simp only [State.begin_fields, ha, if_false, ← hlow]
    rfl

/-- With no level on the measured line the other one is measured (R192, R191). -/
theorem pollBody_flipsLine {s : State} {c : Cc} (ha : s.attach = .usb20) (hm : s.measCc = some c) (he : Expired s)
    (hlevel : s.readByte.toNat % 4 = 0) :
    pollBody s = .ok (startMeasurement c.other (s.sampleMillis.regRead regStatus0 1)) := by
  have hbc : bcLvl s.sampleMillis.readByte = 0#2 := (bcLvl_eq _).2 hlevel
  rw [pollBody_usb20 ha, pollTimer_expired he]
  simp only [onExpiry, State.sampleMillis_fields, ha, checkMeasurement, hm, if_pos hbc, State.regRead1_eq]

/-- Settles O27: `pollBody_flipsLine` at either line. -/
theorem pollFlipsLine : Obligations.PollFlipsLine := by
  intro s c ha hm he hlevel hs
  have hpoll := pollBody_flipsLine (s := s.begin) ha hm he hlevel
  refine ⟨_, execPoll_ok hpoll hs, ?_, ?_, respond_timerArmed _ _ (startMeasurement_timerArmed ..)⟩
  · apply State.ext <;> simp [he.1]
    cases c <;> rfl
  · simp only [State.respond_fields]
    rw [startMeasurement_does]
    simp only [State.regRead_doings, State.sampleMillis_fields, State.begin_fields]
    cases c <;> rfl

/-- Settles O28: `enterPdWait_fields` for the frame, `pdWaitWrites_doings` for the six writes. -/
theorem pollEntersPdWait : Obligations.PollEntersPdWait := by
  intro s c ha hm he hlevel hs
  have hpoll := pollBody_entersPdWait (s := s.begin) ha hm he hlevel
  refine ⟨_, execPoll_ok hpoll hs, ?_, ?_, respond_timerArmed _ _ (enterPdWait_timerArmed ..)⟩
  · apply State.ext <;> simp [he.1]
  · simp only [State.respond_fields, enterPdWait_fields, doings_append, pdWaitWrites_doings, State.initIntN_fields,
      State.regRead_doings, State.sampleMillis_fields, State.begin_fields]
    cases c <;> rfl

/-- Settles O30: the bring-up of `enter_retry_wait()` after the two samples and the ProtocolTimeout (R363). -/
theorem pollPdWaitTimeout : Obligations.PollPdWaitTimeout := by
  intro s ha hi he hs
  have hpoll : pollBody s.begin = .ok (enterRetryWait (s.begin.sampleIntN.sampleMillis.raise .protocolTimeout)) := by
    rw [pollBody_onExpiry (s := s.begin) (by simp [ha]) hi he]
    simp [onExpiry, ha]
  refine ⟨_, execPoll_ok hpoll hs, ?_, ?_, ?_, respond_timerArmed _ _ (enterRetryWait_timerArmed _)⟩
  · apply State.ext <;> simp
  · simp only [State.respond_fields, enterRetryWait_fields, doings_append, chipBringup_does, State.raise_fields,
      State.sampleMillis_fields, State.sampleIntN_fields, State.begin_fields]
    rfl
  · simp only [State.respond_fields, enterRetryWait_fields]
    exact chipBringup_delaysAtLeast (by simp) rfl

/-- Settles O31: `start_sink_body()` after the two samples. -/
theorem pollRetryWaitExpiry : Obligations.PollRetryWaitExpiry := by
  intro s ha hi he hs
  have hpoll : pollBody s.begin = .ok (startSinkBody s.begin.sampleIntN.sampleMillis) := by
    rw [pollBody_onExpiry (s := s.begin) (by simp [ha]) hi he]
    simp [onExpiry, ha]
  refine ⟨_, execPoll_ok hpoll hs, ?_, ?_, respond_timerArmed _ _ (startMeasurement_timerArmed ..)⟩
  · apply State.ext <;> simp [he.1]
  · exact startMeasurement_does .cc1 s.begin.sampleIntN.sampleMillis

/-! ## The fields of the attach state machine under the other commands (R180) -/

/-- The attach state, the measured line, the timer, the pin mode and the RX fields are as before. -/
def AttachKept (s t : State) : Prop :=
  t.attach = s.attach ∧ t.measCc = s.measCc ∧ t.timerActive = s.timerActive ∧ t.timerExp = s.timerExp ∧
  t.intNMode = s.intNMode ∧ t.rxRing = s.rxRing ∧ t.slotGen = s.slotGen ∧ t.rxIdx = s.rxIdx

theorem answered_attachKept {status : BitVec 2} {value : Word} {s u : State} (h : answered status value s = .ok u) :
    AttachKept s u := by
  cases h
  simp [AttachKept]

/-- SEND_MESSAGE moves the framer, the bus and the message ID only (R250). -/
theorem sendMessageBody_attachKept {header : Header} {payload : List Byte} (s : State)
    (hp : payload.length = payloadLength header) :
    AttachKept s ((sendMessageBody header payload s.begin).respond 0#2 0#32) := by
  obtain ⟨ha, hm, ht, he, -, hmode, hidx, hring, -, -, -, -, -, -, hgen, -⟩ :=
    sendMessageBody_fields header payload s.begin hp
  exact ⟨ha, hm, ht, he, hmode, hring, hgen, hidx⟩

/-- A lone TX token moves the framer only (log 6). -/
theorem tokenBody_attachKept {b : Byte} {s u : State} (h : tokenBody b s = .ok u) : AttachKept s u := by
  unfold tokenBody at h
  split at h
  · cases h
    simp [AttachKept]
  · cases h

/-- What is neither INIT, START_SINK, POLL nor a lone frame leaves the attach state machine alone (R180, log 7). -/
theorem body_attachKept {i : Instr} {s u : State} (hinit : i ≠ .init) (hsink : i ≠ .startSink) (hpoll : i ≠ .poll)
    (hframe : ∀ low, i ≠ .rxTokenSop low) (h : body i s = .ok u) : AttachKept s u := by
  cases i with
  | init => exact absurd rfl hinit
  | startSink => exact absurd rfl hsink
  | poll => exact absurd rfl hpoll
  | sendMessage header => cases h; exact sendMessageBody_attachKept s (payloadOperand_length header s.payloadPort)
  | sendHeaderMessage type rev =>
    simp only [body] at h
    split at h
    · cases h; exact sendMessageBody_attachKept s (createCtrl_payloadLength type rev).symm
    · exact answered_attachKept h
  | popEvent =>
    simp only [body] at h
    split at h
    · exact answered_attachKept h
    next e rest _ => cases h; simp [AttachKept]
  | getDeviceId => cases h; simp [AttachKept]
  | createCtrl | createData =>
    simp only [body] at h
    split at h <;> exact answered_attachKept h
  | tokSop1 | tokSop2 | tokPacksym | tokJamCrc | tokEop | tokTxoff | tokTxon => exact tokenBody_attachKept h
  | rxTokenSop low => exact absurd rfl (hframe low)
  | _ => exact answered_attachKept h

/-- The clock takes nothing from these fields. -/
theorem exec_attachKept {i : Instr} {s t : State} (hi : i.isCommand = true) (hinit : i ≠ .init)
    (hsink : i ≠ .startSink) (hpoll : i ≠ .poll) (h : exec i s = .next t) : AttachKept s t := by
  obtain ⟨u, hu, ht⟩ := exec_next h
  have hkept := body_attachKept hinit hsink hpoll (fun low e => by rw [e] at hi; cases hi) hu
  rw [ht]
  exact hkept

theorem exec_init_fields {s t : State} (h : exec .init s = .next t) :
    t.intNMode = s.intNMode ∧ t.rxRing = s.rxRing ∧ t.slotGen = s.slotGen := by
  obtain ⟨u, hu, ht⟩ := exec_next h
  cases hu
  rw [ht]
  simp

theorem exec_startSink_fields {s t : State} (h : exec .startSink s = .next t) :
    t.intNMode = s.intNMode ∧ t.rxRing = s.rxRing ∧ t.slotGen = s.slotGen ∧ t.rxIdx = s.rxIdx := by
  obtain ⟨u, hu, ht⟩ := exec_next h
  cases hu
  rw [ht]
  simp

/-- Settles O33: `exec_attachKept`, and for INIT and START_SINK the fields they leave. -/
theorem attachMovesOnlyIn : Obligations.AttachMovesOnlyIn := by
  intro i s t hi h
  by_cases hinit : i = .init
  · subst hinit
    exact ⟨fun hne => absurd rfl hne, fun _ => exec_init_fields h, fun hne => absurd rfl hne⟩
  by_cases hsink : i = .startSink
  · subst hsink
    obtain ⟨hmode, hring, hgen, hidx⟩ := exec_startSink_fields h
    exact ⟨fun _ hne => absurd rfl hne, fun _ => ⟨hmode, hring, hgen⟩, fun _ _ => hidx⟩
  by_cases hpoll : i = .poll
  · subst hpoll
    exact ⟨fun _ _ hne => absurd rfl hne, fun hne => absurd rfl hne, fun _ hne => absurd rfl hne⟩
  obtain ⟨ha, hm, ht, he, hmode, hring, hgen, hidx⟩ := exec_attachKept hi hinit hsink hpoll h
  exact ⟨fun _ _ _ => ⟨ha, hm, ht, he⟩, fun _ => ⟨hmode, hring, hgen⟩, fun _ _ => hidx⟩

/-! ## The moves of a POLL (R200) -/

/-- A push adds at the end or nothing (R141). -/
theorem prefix_push (s : State) (e : Event) : s.evq <+: (s.push e).evq := by
  simp only [State.push_fields]
  split
  · exact List.prefix_rfl
  · exact List.prefix_append ..

theorem prefix_enterUsbPd (s : State) : s.evq <+: (enterUsbPd s).evq := by
  unfold enterUsbPd
  split
  · exact List.prefix_rfl
  · exact prefix_push ({ s with attach := .usbPd }.timerCancel) .stateChanged

/-- An accepted frame adds to the queue (R231, R232). -/
theorem prefix_acceptFrame (h : Header) (s : State) : s.evq <+: (acceptFrame h s).evq :=
  (prefix_enterUsbPd s).trans (prefix_push (enterUsbPd s) _)

/-- The frame that enters `UsbPd` queues `StateChanged` first where there is room (R231, R198). -/
theorem prefix_acceptFrame_of_room (h : Header) {s : State} (ha : s.attach ≠ .usbPd) (hroom : s.evq.length < 6) :
    s.evq ++ [.stateChanged] <+: (acceptFrame h s).evq := by
  have hentered : (enterUsbPd s).evq = s.evq ++ [.stateChanged] := by simp [enterUsbPd, ha, Nat.ne_of_lt hroom]
  rw [← hentered]
  exact prefix_push (enterUsbPd s) _

/-- A frame leaves attach state, timer and queue alone, or is accepted on top of them (R222 to R232). -/
theorem deframe_accepts (s : State) :
    ((deframe s).2.attach = s.attach ∧ (deframe s).2.timerActive = s.timerActive ∧ (deframe s).2.evq = s.evq) ∨
    ∃ h u, (deframe s).2 = acceptFrame h u ∧ u.attach = s.attach ∧ u.timerActive = s.timerActive ∧ u.evq = s.evq := by
  rcases deframe_cases s with e | ⟨h, e | e | e⟩
  · left; rw [e]; simp [dropNonSop]
  · left; rw [e]; simp
  · left; rw [e]; simp
  · right; exact ⟨h, _, e, by simp⟩

/-- What a drain does to attach state, timer and queue (R222 to R233): outside `UsbPd` nothing until a frame is accepted,
and then it has entered `UsbPd`. -/
def DrainMove (s u : State) : Prop :=
  (u.attach = s.attach ∧ (s.attach ≠ .usbPd → u.evq = s.evq)) ∨
  (u.attach = .usbPd ∧ u.timerActive = false ∧ (s.evq.length < 6 → s.evq ++ [.stateChanged] <+: u.evq))

theorem deframe_drainMove {s u : State} (hu : DrainMove s u) : DrainMove s (deframe u).2 := by
  rcases deframe_accepts u with ⟨ha, ht, hq⟩ | ⟨h, v, e, ha, ht, hq⟩
  · unfold DrainMove
    rwa [ha, ht, hq]
  rw [e]
  rcases hu with ⟨hattach, hevq⟩ | ⟨hattach, htimer, hevq⟩
  · by_cases hp : s.attach = .usbPd
    · exact .inl ⟨by simp [hp], absurd hp⟩
    · rw [hattach] at ha
      rw [hevq hp] at hq
      refine .inr ⟨by simp, by simp [ha, hp], fun hroom => ?_⟩
      rw [← hq] at hroom ⊢
      exact prefix_acceptFrame_of_room h (ha ▸ hp) hroom
  · refine .inr ⟨by simp, by simp [ht, htimer], fun hroom => (hevq hroom).trans ?_⟩
    rw [← hq]
    exact prefix_acceptFrame h v

theorem drain_drainMove {k : Nat} {s u : State} (h : drain k s = .ok u) : DrainMove s u :=
  drain_induct (P := DrainMove s) (fun _ hu => by simpa [DrainMove] using hu) (fun _ => deframe_drainMove) h
    (.inl ⟨rfl, fun _ => rfl⟩)

/-- The moves of the transition table, with the events and the timer of each (R200, R198). -/
inductive PollMove (s t : State) : Prop where
  | stay (ha : t.attach = s.attach)
  | toPdWait (hs : s.attach = .usb20) (ha : t.attach = .usbPdWait) (hq : t.evq = s.evq) (ht : TimerArmed 300#32 t)
  | toRetryWait (hs : s.attach ≠ .usb20) (ha : t.attach = .usbRetryWait) (hq : t.evq = [.stateChanged])
      (ht : TimerArmed 500#32 t)
  | toUsb20 (hs : s.attach = .usbRetryWait) (ha : t.attach = .usb20) (hm : t.measCc = some .cc1) (hq : t.evq = s.evq)
      (ht : TimerArmed 10#32 t)
  | toPd (hs : s.attach ≠ .usb20) (ha : t.attach = .usbPd) (ht : t.timerActive = false)
      (hq : s.evq.length < 6 → s.evq ++ [.stateChanged] <+: t.evq)

/-- Each way a POLL can end is a move of the table (R201, R220). -/
theorem pollEnd_move {s u : State} (h : PollEnd s u) : PollMove s u := by
  cases h with
  | idleUsb20 | idle | flip | pass => exact .stay (by simp)
  | pdWait c hs => exact .toPdWait hs (by simp) (by simp) (enterPdWait_timerArmed ..)
  | timeout hs => exact .toRetryWait (by simp [hs]) (by simp) (by simp) (enterRetryWait_timerArmed _)
  | hardReset hs => exact .toRetryWait hs (by simp) (by simp) (enterRetryWait_timerArmed _)
  | retry hs => exact .toUsb20 hs (by simp) (by simp) (by simp) (startMeasurement_timerArmed ..)
  | drained hs hd =>
    rcases drain_drainMove hd with ⟨ha, -⟩ | ⟨ha, ht, hq⟩
    · exact .stay (by simpa using ha)
    · exact .toPd hs ha ht (by simpa using hq)

/-- What a step wraps around POLL's body touches none of the fields of a move. -/
theorem exec_poll_move {s t : State} (h : exec .poll s = .next t) : PollMove s t := by
  obtain ⟨u, hu, ht⟩ := exec_next h
  obtain ⟨v, hv, rfl⟩ := body_poll hu
  rw [ht]
  cases pollEnd_move hv with
  | stay ha => exact .stay ha
  | toPdWait hs ha hq ht => exact .toPdWait hs ha hq ht
  | toRetryWait hs ha hq ht => exact .toRetryWait hs ha hq ht
  | toUsb20 hs ha hm hq ht => exact .toUsb20 hs ha hm hq ht
  | toPd hs ha ht hq => exact .toPd hs ha ht hq

/-- Settles O34: `exec_poll_move`, each move read off. -/
theorem pollTransitions : Obligations.PollTransitions := by
  intro s t h
  cases exec_poll_move h with
  | stay ha => simp +contextual [ha]
  | toPdWait hs ha hq ht => simp [hs, ha, hq, ht]
  | toRetryWait hs ha hq ht => simp [hs, ha, hq, ht]
  | toUsb20 hs ha hm hq ht => simp [hs, ha, hm, hq, ht]
  | toPd hs ha ht hq =>
    have hfirst : s.evq.length < 6 → t.evq[s.evq.length]? = some .stateChanged := fun hroom => by
      obtain ⟨rest, hrest⟩ := hq hroom
      simp [← hrest]
    simp +contextual [hs, ha, ht, hfirst]

/-! ## The measured line (R192) -/

/-- The invariant looks at three fields. -/
theorem lineInv_congr {s t : State} (hs : LineInv s) (ha : t.attach = s.attach := by simp)
    (hm : t.measCc = s.measCc := by simp) (ht : t.timerActive = s.timerActive := by simp) : LineInv t := by
  unfold LineInv
  rw [ha, hm, ht]
  exact hs

/-- Outside `Usb20` nothing is asked. -/
theorem lineInv_of_not_usb20 {s : State} (ha : s.attach ≠ .usb20 := by simp) : LineInv s := fun h => absurd h ha

/-- Where a line is measured nothing more is asked. -/
theorem lineInv_of_measCc {s : State} (hm : s.measCc ≠ none := by simp) : LineInv s := fun _ _ => hm

/-- A frame leaves the three fields alone or enters `UsbPd` (R222 to R232). -/
theorem deframe_lineInv {s : State} (hs : LineInv s) : LineInv (deframe s).2 := by
  rcases deframe_accepts s with ⟨ha, ht, -⟩ | ⟨h, u, e, -⟩
  · exact lineInv_congr hs ha (by simp) ht
  · rw [e]
    exact lineInv_of_not_usb20

theorem drain_lineInv {k : Nat} {s t : State} (h : drain k s = .ok t) (hs : LineInv s) : LineInv t :=
  drain_induct (P := LineInv) (fun _ hu => lineInv_congr hu) (fun _ => deframe_lineInv) h hs

/-- Every way a POLL can end keeps the invariant (R201, R220). -/
theorem pollEnd_lineInv {s u : State} (h : PollEnd s u) (hs : LineInv s) : LineInv u := by
  cases h with
  | idleUsb20 | idle | pass => exact lineInv_congr hs
  | flip | retry => exact lineInv_of_measCc
  | pdWait | timeout | hardReset => exact lineInv_of_not_usb20
  | drained _ hd => exact drain_lineInv hd (lineInv_congr hs)

/-- Every instruction's body keeps the invariant: INIT stops the timer, START_SINK measures CC1 (R182, R190). -/
theorem body_lineInv {i : Instr} {s u : State} (h : body i s = .ok u) (hs : LineInv s) : LineInv u := by
  have others (hinit : i ≠ .init) (hsink : i ≠ .startSink) (hpoll : i ≠ .poll)
      (hframe : ∀ low, i ≠ .rxTokenSop low) : LineInv u := by
    obtain ⟨ha, hm, ht, -⟩ := body_attachKept hinit hsink hpoll hframe h
    exact lineInv_congr hs ha hm ht
  cases i with
  | init => cases h; simp [LineInv]
  | startSink => cases h; exact lineInv_of_measCc
  | poll =>
    obtain ⟨v, hv, rfl⟩ := body_poll h
    exact lineInv_congr (pollEnd_lineInv hv (lineInv_congr hs))
  | rxTokenSop low => cases h; exact deframe_lineInv (lineInv_congr hs)
  | _ => exact others nofun nofun nofun nofun

/-- The drain's own fault is another one (R234, log 4). -/
theorem drain_fault {k : Nat} {s : State} {f : Fault} (h : drain k s = .error f) : f = .drainEndless := by
  induction k generalizing s with
  | zero => cases h; rfl
  | succ k ih =>
    rw [drain_succ] at h
    split at h
    · cases h
    · split at h
      · exact ih h
      · cases h

theorem handleInterrupts_fault {s : State} {f : Fault} (h : handleInterrupts s = .error f) : f = .drainEndless := by
  rw [handleInterrupts_eq] at h
  split at h
  · cases h
  · split at h
    · exact drain_fault h
    · cases h

/-- The timer branch finds a line to test: it tests one only in `Usb20` with the timer running (R192). -/
theorem pollTimer_ends {s : State} (hs : LineInv s) : ∃ u, pollTimer s = .ok u := by
  by_cases he : Expired s
  · rw [pollTimer_expired he, onExpiry]
    simp only [State.sampleMillis_fields, checkMeasurement]
    cases ha : s.attach with
    | usb20 =>
      obtain ⟨c, hm⟩ := Option.ne_none_iff_exists'.1 (hs ha he.1)
      simp only [hm]
      split <;> exact ⟨_, rfl⟩
    | usbPdWait | usbPd | usbRetryWait => exact ⟨_, rfl⟩
  · exact ⟨_, pollTimer_not_expired he⟩

theorem pollBody_fault {s : State} {f : Fault} (hs : LineInv s) (h : pollBody s = .error f) : f = .drainEndless := by
  have htimer : ∀ {u : State}, LineInv u → pollTimer u ≠ .error f := fun hu he => by
    obtain ⟨v, hv⟩ := pollTimer_ends hu
    rw [hv] at he
    cases he
  unfold pollBody at h
  split at h
  · exact absurd h (htimer hs)
  · split at h
    · exact handleInterrupts_fault h
    · exact absurd h (htimer (lineInv_congr hs))

/-- A step's end adds only the clock's fault (R341). -/
theorem complete_fault {before after : State} {f : Fault} (h : complete before after = .fault f) : f = .sclHeldLow := by
  unfold complete at h
  split at h
  · cases h
  · split at h <;> cases h
    rfl

/-- The faults POLL can end in where the invariant holds (log 4, log 5). -/
theorem exec_poll_fault {s : State} {f : Fault} (hs : LineInv s) (h : exec .poll s = .fault f) :
    f = .drainEndless ∨ f = .sclHeldLow := by
  rw [exec_eq, body] at h
  cases hb : pollBody s.begin with
  | ok u => rw [hb] at h; exact .inr (complete_fault h)
  | error g =>
    rw [hb] at h
    cases h
    exact .inl (pollBody_fault (s := s.begin) hs hb)

/-- Settles O58: `body_lineInv` and `deframe_lineInv` for the steps, `exec_poll_fault` for POLL. -/
theorem lineInvKept : Obligations.LineInvKept := by
  refine ⟨fun s t hs h => ?_, fun s hs h => ?_⟩
  · exact step_keeps (P := LineInv) (fun _ _ _ hu => lineInv_congr hu) (fun _ _ _ _ _ hu => hu)
      (fun _ _ _ => body_lineInv) (fun _ _ hu => deframe_lineInv (lineInv_congr hu)) h hs
  · rcases exec_poll_fault hs h with hf | hf <;> cases hf

end Sys2Proof.Proofs
end

section
/-! Receive path (43_receive_path.md): the drain of an interrupt pass as one fold over the frames the chip returns, and what
one frame, discarded or accepted, leaves. -/

namespace Sys2Proof.Proofs

open Sys2Proof.Machine Sys2Proof.Statements

/-! ## The bytes the chip returns -/

@[simp] theorem pending_skip {α : Type} (n : Nat) (x : Input α) : (Input.skip n x).pending = x.pending.drop n := by
  induction n generalizing x with
  | zero => rfl
  | succ n ih => simp [Input.skip, Input.next, ih]

/-- The next draws of a stream that lists them. -/
theorem values_of_pending_eq {α : Type} (free : Nat → α) {x : Input α} {xs more : List α}
    (h : x.pending = xs ++ more) : Input.values free xs.length x = xs := by
  obtain ⟨pending, taken⟩ := x
  subst h
  exact Input.values_of_pending free xs more taken

theorem readByte_of_pending {s : State} {b : Byte} {more : List Byte} (h : s.chipIn.pending = b :: more) :
    s.readByte = b := by
  simp [State.readByte, Input.value, h]

/-- A frame is the STATUS1 byte that announces it and the bytes its round of the loop then reads (R222). -/
theorem chip_eq (f : RxFrame) :
    f.chip = f.status1 :: (f.token :: f.low :: f.high :: f.body ++ [f.status0]) := rfl

/-- The test of an SOP frame, part by part (R222, R124). -/
theorem sop_iff (f : RxFrame) : f.sop = true ↔
    f.status1.toNat / 32 % 2 = 0 ∧ f.token.toNat / 32 = 7 ∧ f.body.length = 4 * f.objects + 4 := by
  simp [RxFrame.sop, and_assoc]

theorem rxEmpty_iff (b : Byte) : rxEmpty b = true ↔ b.toNat / 32 % 2 = 1 := getLsbD_iff b 5

theorem rxEmpty_of_even {b : Byte} (h : b.toNat / 32 % 2 = 0) : ¬ rxEmpty b = true := by
  rw [rxEmpty_iff]
  omega

/-! ## Operations that move nothing a drain moves -/

/-- `t` is `s` after acts `does` that move neither attach state, timer, queue, index nor ring, so no field by which a drain
is told (R222). -/
structure Quiet (s t : State) (does : List Doing) : Prop where
  attach : t.attach = s.attach
  timerActive : t.timerActive = s.timerActive
  evq : t.evq = s.evq
  rxIdx : t.rxIdx = s.rxIdx
  rxRing : t.rxRing = s.rxRing
  slotGen : t.slotGen = s.slotGen
  doings : doings t.trace = doings s.trace ++ does

theorem Quiet.transactions {s t : State} {does : List Doing} (h : Quiet s t does) :
    transactions t.trace = transactions s.trace ++ does.filter Doing.isTransaction := by
  simp only [Machine.transactions, h.doings, List.filter_append]

theorem Quiet.conditions {s t : State} {does : List Doing} (h : Quiet s t does) :
    conditions t.trace = conditions s.trace ++ does.filter Doing.isCondition := by
  simp only [Machine.conditions, h.doings, List.filter_append]

theorem Quiet.trans {s t u : State} {does does' : List Doing} (h : Quiet s t does) (h' : Quiet t u does') :
    Quiet s u (does ++ does') := by
  constructor
  · rw [h'.attach, h.attach]
  · rw [h'.timerActive, h.timerActive]
  · rw [h'.evq, h.evq]
  · rw [h'.rxIdx, h.rxIdx]
  · rw [h'.rxRing, h.rxRing]
  · rw [h'.slotGen, h.slotGen]
  · rw [h'.doings, h.doings, List.append_assoc]

theorem regRead_quiet (s : State) (reg : Byte) (n : Nat) : Quiet s (s.regRead reg n) [.read reg n] := by
  constructor <;> simp

theorem Quiet.respond {s t : State} {does : List Doing} (h : Quiet s t does) (status : BitVec 2) (value : Word) :
    Quiet s (t.respond status value) does :=
  ⟨h.attach, h.timerActive, h.evq, h.rxIdx, h.rxRing, h.slotGen, h.doings⟩

/-- The flush of the RX FIFO (R223). -/
theorem dropNonSop_quiet (token : Byte) (s : State) :
    Quiet s (dropNonSop token s) [.raise (.notSop token), .write regControl1 [vCtrl1RxFlush]] := by
  unfold dropNonSop
  constructor <;> simp

/-! ## The effect of frames, one after the other -/

theorem ringAfter_congr {slot : BitVec 2} {frames : List RxFrame} {ring ring' : BitVec 2 → Nat → Byte} {k : BitVec 2}
    {o : Nat} (h : ring k o = ring' k o) : ringAfter slot frames ring k o = ringAfter slot frames ring' k o := by
  induction frames generalizing slot ring ring' with
  | nil => exact h
  | cons f fs ih =>
    refine ih ?_
    simp only [h]

/-- Where nothing moves, no frame was drained. -/
theorem Quiet.drainEffect {s t : State} {does : List Doing} (h : Quiet s t does) (hq : s.evq.length ≤ 6) :
    DrainEffect s t [] := by
  refine ⟨h.attach, ?_, ?_, ?_, fun k o _ => State.ringByte_congr h.rxRing k o⟩
  · simpa using h.timerActive
  · have hall : (s.evq.map Event.shown).take 6 = s.evq.map Event.shown :=
      List.take_of_length_le (by rwa [List.length_map])
    simp [h.evq, pushedByDrain, hall]
  · simp [h.rxIdx]

/-- The queue of a drain holds at most six (R41). -/
theorem drainEffect_evq_le {s t : State} {frames : List RxFrame} (h : DrainEffect s t frames) : t.evq.length ≤ 6 := by
  obtain ⟨-, -, hevq, -, -⟩ := h
  rw [← List.length_map (f := Event.shown), hevq]
  exact List.length_take_le ..

/-- Later frames are stored from the slot the index names after the earlier ones (R232). -/
theorem ringAfter_append (slot : BitVec 2) (fs gs : List RxFrame) (ring : BitVec 2 → Nat → Byte) :
    ringAfter slot (fs ++ gs) ring
      = ringAfter (slot + BitVec.ofNat 2 (fs.filter RxFrame.accepted).length) gs (ringAfter slot fs ring) := by
  induction fs generalizing slot ring with
  | nil => simp [ringAfter]
  | cons f fs ih =>
    rw [List.cons_append, ringAfter, ih, ringAfter]
    cases hacc : f.accepted with
    | false => simp [hacc]
    | true =>
      have hslot (n : Nat) : slot + 1#2 + BitVec.ofNat 2 n = slot + BitVec.ofNat 2 (n + 1) := by
        rw [Nat.add_comm n 1, BitVec.ofNat_add, BitVec.add_assoc]
      simp [hacc, hslot]

/-- The events of accepted frames drained one after the other (R231 to R233). -/
theorem pushedByDrain_append {s t : State} {fs gs : List RxFrame} (ha : t.attach = if fs = [] then s.attach else .usbPd)
    (hidx : t.rxIdx = s.rxIdx + BitVec.ofNat 2 fs.length) :
    pushedByDrain s (fs ++ gs) = pushedByDrain s fs ++ pushedByDrain t gs := by
  have hslot (j : Nat) : (s.rxIdx.toNat + (j + fs.length)) % 4 = (t.rxIdx.toNat + j) % 4 := by
    simp only [hidx, BitVec.toNat_add, BitVec.toNat_ofNat]
    omega
  unfold pushedByDrain
  rw [List.mapIdx_append]
  simp only [hslot]
  cases fs with
  | nil => simp [ha]
  | cons f fs => simp [ha]

/-- Appending to a queue of six places twice is appending once (R141). -/
theorem take_append_take {α : Type} (n : Nat) (xs ys : List α) : (xs.take n ++ ys).take n = (xs ++ ys).take n := by
  simp only [List.take_append, List.take_take, Nat.min_self, List.length_take]
  congr 2
  omega

/-- Frames drained one after the other have the effect of one drain (R222). -/
theorem drainEffect_append {s t u : State} {fs gs : List RxFrame} (h : DrainEffect s t fs) (h' : DrainEffect t u gs) :
    DrainEffect s u (fs ++ gs) := by
  obtain ⟨ha, ht, hevq, hidx, hring⟩ := h
  obtain ⟨ha', ht', hevq', hidx', hring'⟩ := h'
  refine ⟨?_, ?_, ?_, ?_, fun k o ho => ?_⟩
  · rw [ha', ha, List.filter_append]
    by_cases hgs : gs.filter RxFrame.accepted = [] <;> simp [hgs]
  · rw [ht', ht, ha, List.filter_append]
    by_cases hfs : fs.filter RxFrame.accepted = [] <;> simp [hfs]
  · rw [hevq', hevq, take_append_take, List.filter_append, pushedByDrain_append ha hidx, List.append_assoc]
  · rw [hidx', hidx, List.filter_append, List.length_append, BitVec.ofNat_add, BitVec.add_assoc]
  · rw [hring' k o ho, hidx, ringAfter_append]
    exact ringAfter_congr (hring k o ho)

/-! ## The frames of a drain -/

/-- One round of the drain that finds a frame: STATUS1, then the frame (R222). -/
def frameDrained (s : State) : State := (deframe (s.regRead regStatus1 1)).2

/-- So many rounds of the drain, each of which finds a frame. -/
def roundsDrained : Nat → State → State
  | 0, s => s
  | n + 1, s => roundsDrained n (frameDrained s)

/-- The events one frame pushes, with the generation its slot has then (R231, R232, log 14). -/
def frameEvents (s : State) (f : RxFrame) : List Event :=
  if f.accepted then
    (if s.attach = .usbPd then [] else [.stateChanged])
      ++ [.messageReceived (BitVec.ofNat 16 f.headerNat) s.rxIdx (s.generation s.rxIdx + 1)]
  else []

/-- The conditions one frame records: what of its events the queue has no room for, or BadCrc (R227, R366). -/
def frameConditions (s : State) (f : RxFrame) : List Doing :=
  if f.accepted then ((frameEvents s f).drop (6 - s.evq.length)).map fun e => .raise (.queueOverflow e)
  else if f.status0.toNat / 16 % 2 = 1 then [] else [.raise (.badCrc (BitVec.ofNat 16 f.headerNat))]

theorem Quiet.frameEvents {s t : State} {does : List Doing} (h : Quiet s t does) (f : RxFrame) :
    frameEvents t f = frameEvents s f := by
  unfold Proofs.frameEvents
  rw [h.attach, h.rxIdx, State.generation_congr h.slotGen]

theorem Quiet.frameConditions {s t : State} {does : List Doing} (h : Quiet s t does) (f : RxFrame) :
    frameConditions t f = frameConditions s f := by
  unfold Proofs.frameConditions
  rw [h.frameEvents, h.evq]

/-- An accepted frame's events once it is stored, where the slot's generation has moved on (R225, R151). -/
theorem acceptedEvents_frameStored (f : RxFrame) (s : State) :
    (if f.accepted then acceptedEvents f.header (frameStored f.header ((s.regRead regStatus1 1).regRead regFifos 3))
      else []) = frameEvents s f := by
  have hgen := State.generation_set (s := s) (slot := s.rxIdx)
    (t := frameStored f.header ((s.regRead regStatus1 1).regRead regFifos 3)) (by simp [State.generation]) s.rxIdx
  rw [if_pos rfl] at hgen
  unfold frameEvents acceptedEvents
  simp only [frameStored_fields, State.regRead_fields, hgen, ← f.header_eq]

section
variable {s : State} {f : RxFrame} {more : List Byte} (hf : f.sop = true) (hp : s.chipIn.pending = f.chip ++ more)
include hp

/-- The frame's bytes after the STATUS1 read (R222). -/
theorem values_frame : Input.values Config.freeChipByte (f.body.length + 4) (s.regRead regStatus1 1).chipIn
    = f.token :: f.low :: f.high :: f.body ++ [f.status0] := by
  have hnext : (s.regRead regStatus1 1).chipIn.pending
      = (f.token :: f.low :: f.high :: f.body ++ [f.status0]) ++ more := by simp [hp, chip_eq]
  simpa using values_of_pending_eq Config.freeChipByte hnext

include hf

/-- The loop goes on after an SOP frame (R222). -/
theorem drain_frame (k : Nat) : drain (k + 1) s = drain k (frameDrained s) := by
  obtain ⟨hempty, -, -⟩ := (sop_iff f).1 hf
  obtain ⟨hgoes, -⟩ := deframe_sop hf (values_frame hp)
  rw [drain_succ, readByte_of_pending hp, if_neg (rxEmpty_of_even hempty), if_pos hgoes]
  rfl

theorem frameDrained_drainEffect (hq : s.evq.length ≤ 6) : DrainEffect s (frameDrained s) [f] := by
  have hread := (regRead_quiet s regStatus1 1).drainEffect hq
  exact drainEffect_append hread (deframe_drainEffect (by simpa using hq) hf (values_frame hp))

theorem frameDrained_transactions (hq : s.evq.length ≤ 6) :
    transactions (frameDrained s).trace = transactions s.trace ++ frameReads f := by
  unfold frameDrained
  rw [deframe_transactions (by simpa using hq) hf (values_frame hp), (regRead_quiet s regStatus1 1).transactions,
    List.append_assoc]
  rfl

/-- The frame's bytes are taken; the verdict pushes its events as far as there is room, and records its conditions (R222,
R227, R232, R366). -/
theorem frameDrained_verdict (hq : s.evq.length ≤ 6) :
    (frameDrained s).chipIn.pending = more ∧
    (frameDrained s).evq = s.evq ++ (frameEvents s f).take (6 - s.evq.length) ∧
    conditions (frameDrained s).trace = conditions s.trace ++ frameConditions s f := by
  obtain ⟨-, he, -, hlen⟩ := deframe_sop hf (values_frame hp)
  obtain ⟨-, -, -, -, -, hchip, -, hevq, -, hcond⟩ :=
    judgeFrame_effect f (frameStored f.header ((s.regRead regStatus1 1).regRead regFifos 3)) (by simpa using hq)
  have hevents := acceptedEvents_frameStored f s
  unfold frameDrained
  rw [he, hchip, hevq, hcond, hevents]
  refine ⟨?_, by simp, ?_⟩
  · have hdrop : payloadLength f.header + 5 = f.body.length + 1 := by omega
    simp [hp, chip_eq, hdrop]
  · have hstored : conditions (frameStored f.header ((s.regRead regStatus1 1).regRead regFifos 3)).trace
        = conditions s.trace := by
      simp [conditions, Doing.isCondition]
    rw [hstored, frameConditions, ← f.header_eq]
    by_cases hacc : f.accepted = true
    · rw [if_pos hacc] at hevents
      rw [if_pos hacc, if_pos hacc, hevents]
      simp
    · rw [if_neg hacc, if_neg hacc]

end

/-- The framing errors of a trace (R361, R364). -/
def framingErrors (trace : List Act) : List Doing := (conditions trace).filter Doing.isFramingError

/-- BadCrc for each frame whose CRC flag is clear (R227). -/
def badCrcs (frames : List RxFrame) : List Doing :=
  (frames.filter fun f => f.status0.toNat / 16 % 2 = 0).map fun f => .raise (.badCrc (BitVec.ofNat 16 f.headerNat))

/-- Of the conditions of one frame only BadCrc is a framing error (R364). -/
theorem frameConditions_framing (s : State) (f : RxFrame) :
    (frameConditions s f).filter Doing.isFramingError = badCrcs [f] := by
  have hoverflows (l : List Event) :
      (l.map fun e => Doing.raise (.queueOverflow e)).filter Doing.isFramingError = [] := by
    simp [List.filter_eq_nil_iff, Doing.isFramingError]
  unfold frameConditions badCrcs
  by_cases hacc : f.accepted = true
  · have hc : f.status0.toNat / 16 % 2 = 1 := by simp_all [RxFrame.accepted]
    rw [if_pos hacc, hoverflows]
    simp [hc]
  · rw [if_neg hacc]
    rcases Nat.mod_two_eq_zero_or_one (f.status0.toNat / 16) with hc | hc <;> simp [hc, Doing.isFramingError]

/-- `u` is `s` after a drain of these frames, and `more` are the bytes the chip has left. -/
structure FramesDrained (s u : State) (frames : List RxFrame) (more : List Byte) : Prop where
  effect : DrainEffect s u frames
  transactions : transactions u.trace = transactions s.trace ++ frames.flatMap frameReads
  framing : framingErrors u.trace = framingErrors s.trace ++ badCrcs frames
  pending : u.chipIn.pending = more

theorem framesDrained_one {s : State} {f : RxFrame} {more : List Byte} (hf : f.sop = true)
    (hp : s.chipIn.pending = f.chip ++ more) (hq : s.evq.length ≤ 6) : FramesDrained s (frameDrained s) [f] more := by
  obtain ⟨hmore, -, hcond⟩ := frameDrained_verdict hf hp hq
  refine ⟨frameDrained_drainEffect hf hp hq, ?_, ?_, hmore⟩
  · rw [frameDrained_transactions hf hp hq, List.flatMap_singleton]
  · rw [framingErrors, hcond, List.filter_append, frameConditions_framing]
    rfl

theorem FramesDrained.append {s t u : State} {fs gs : List RxFrame} {more more' : List Byte}
    (h : FramesDrained s t fs more) (h' : FramesDrained t u gs more') : FramesDrained s u (fs ++ gs) more' := by
  refine ⟨drainEffect_append h.effect h'.effect, ?_, ?_, h'.pending⟩
  · rw [h'.transactions, h.transactions, List.flatMap_append, List.append_assoc]
  · rw [h'.framing, h.framing, List.append_assoc, badCrcs, badCrcs, badCrcs, List.filter_append, List.map_append]

/-- The drain follows its frames, one round for each (R222). -/
theorem drain_frames {frames : List RxFrame} {more : List Byte} {s : State} (k : Nat)
    (hf : ∀ f ∈ frames, f.sop = true) (hp : s.chipIn.pending = frames.flatMap RxFrame.chip ++ more)
    (hq : s.evq.length ≤ 6) :
    drain (k + frames.length) s = drain k (roundsDrained frames.length s) ∧
    FramesDrained s (roundsDrained frames.length s) frames more := by
  induction frames generalizing s with
  | nil =>
    refine ⟨rfl, ?_, ?_, ?_, hp⟩
    · exact Quiet.drainEffect (does := []) ⟨rfl, rfl, rfl, rfl, rfl, rfl, (List.append_nil _).symm⟩ hq
    · exact (List.append_nil _).symm
    · exact (List.append_nil _).symm
  | cons f fs ih =>
    have hsop : f.sop = true := hf f List.mem_cons_self
    have hbytes : s.chipIn.pending = f.chip ++ (fs.flatMap RxFrame.chip ++ more) := by
      rw [hp, List.flatMap_cons, List.append_assoc]
    have hone := framesDrained_one hsop hbytes hq
    obtain ⟨hdrain, hrest⟩ := ih (fun g hg => hf g (List.mem_cons_of_mem f hg)) hone.pending
      (drainEffect_evq_le hone.effect)
    exact ⟨(drain_frame hsop hbytes _).trans hdrain, hone.append hrest⟩

/-! ## The end of a drain -/

/-- RX_EMPTY ends the drain (R222). -/
theorem drain_rxEmpty {s : State} {last : Byte} {rest : List Byte} (hp : s.chipIn.pending = last :: rest)
    (hlast : last.toNat / 32 % 2 = 1) (k : Nat) : drain (k + 1) s = .ok (s.regRead regStatus1 1) := by
  rw [drain_succ, readByte_of_pending hp, if_pos ((rxEmpty_iff last).2 hlast)]

/-- A frame whose token is not an SOP token: its token and two bytes are read, the RX FIFO is flushed (R223). -/
theorem deframe_nonSop {s : State} {token x y : Byte} {rest : List Byte}
    (hp : s.chipIn.pending = [token, x, y] ++ rest) (htoken : token.toNat / 32 ≠ 7) :
    deframe s = (false, dropNonSop token (s.regRead regFifos 3)) := by
  have hread : s.readData 3 = [token, x, y] := values_of_pending_eq Config.freeChipByte hp
  have hsop : ¬ isSopToken token = true := mt (isSopToken_iff token).1 htoken
  simp only [deframe, hread, List.getD_cons_zero, if_neg hsop]

/-- Such a frame ends the drain (R223). -/
theorem drain_nonSop {s : State} {status1 token x y : Byte} {rest : List Byte}
    (hp : s.chipIn.pending = [status1, token, x, y] ++ rest) (hstatus : status1.toNat / 32 % 2 = 0)
    (htoken : token.toNat / 32 ≠ 7) (k : Nat) :
    drain (k + 1) s = .ok (dropNonSop token ((s.regRead regStatus1 1).regRead regFifos 3)) := by
  have hnext : (s.regRead regStatus1 1).chipIn.pending = [token, x, y] ++ rest := by simp [hp]
  rw [drain_succ, readByte_of_pending hp, if_neg (rxEmpty_of_even hstatus), deframe_nonSop hnext htoken]
  rfl

/-- A drain whose next bytes are its ending stops there: it has moved nothing more and taken these bytes (R222, R223). -/
theorem drain_ends {s : State} {ending rest : List Byte} {does errors : List Doing} (hend : DrainEnds ending does errors)
    (hp : s.chipIn.pending = ending ++ rest) :
    ∃ t acts, (∀ k, drain (k + 1) s = .ok t) ∧ Quiet s t acts ∧ acts.filter Doing.isTransaction = does ∧
      acts.filter Doing.isCondition = errors ∧ t.chipIn.pending = rest := by
  obtain ⟨last, rfl, hlast, rfl, rfl⟩ | ⟨status1, token, x, y, rfl, hstatus, htoken, rfl, rfl⟩ := hend
  · exact ⟨_, _, drain_rxEmpty hp hlast, regRead_quiet s regStatus1 1, rfl, rfl, by simp [hp]⟩
  · exact ⟨_, _, drain_nonSop hp hstatus htoken,
      ((regRead_quiet s regStatus1 1).trans (regRead_quiet _ regFifos 3)).trans (dropNonSop_quiet token _), rfl, rfl,
      by simp [dropNonSop, hp]⟩

/-! ## The interrupt pass before a drain -/

theorem chipByte_of_pending {s : State} {k : Nat} {b : Byte} (h : s.chipIn.pending[k]? = some b) : s.chipByte k = b := by
  simp [State.chipByte, Input.value, h]

/-- The start of an interrupt pass moves nothing a drain moves (R220, R221, R256). -/
theorem passed_quiet (s : State) :
    Quiet s.begin (passed s.begin.sampleIntN) (passHead (s.chipByte 1) (s.chipByte 3)) := by
  refine ⟨by simp, by simp, by simp, by simp, by simp, by simp, ?_⟩
  have hretry : iRetryFail (s.chipByte 1) = true ↔ (s.chipByte 1).toNat / 16 % 2 = 1 := getLsbD_iff _ 4
  have hsent : iTxSent (s.chipByte 1) = true ↔ (s.chipByte 1).toNat / 4 % 2 = 1 := getLsbD_iff _ 2
  have hempty : txEmpty (s.chipByte 3) = true ↔ (s.chipByte 3).toNat / 8 % 2 = 1 := getLsbD_iff _ 3
  have h1 : (s.begin.sampleIntN.regRead regInterrupt 1).readByte = s.chipByte 1 := rfl
  have h3 : (Input.skip 3 s.begin.sampleIntN.chipIn).value Config.freeChipByte = s.chipByte 3 := rfl
  rw [passed_doings, h1, h3]
  simp only [hretry, hsent, hempty, State.sampleIntN_fields, State.begin_fields]
  rfl

/-- Of the conditions of a pass before its drain only RetryFail can be recorded (R221). -/
theorem passHead_conditions (interrupta status1 : Byte) : (passHead interrupta status1).filter Doing.isCondition
    = if interrupta.toNat / 16 % 2 = 1 then [.raise .retryFail] else [] := by
  have hsent : (if interrupta.toNat / 4 % 2 = 1 then
      .read 0x41#8 1 :: (if status1.toNat / 8 % 2 = 1 then [.write 0x0B#8 [0x07#8]] else [])
    else []).filter Doing.isCondition = [] := by
    split
    · split <;> rfl
    · rfl
  rw [passHead, List.filter_append, List.filter_append, hsent]
  split <;> rfl

theorem passHead_framing (interrupta status1 : Byte) :
    ((passHead interrupta status1).filter Doing.isCondition).filter Doing.isFramingError = [] := by
  rw [passHead_conditions]
  split <;> rfl

/-- The drain triggers in numbers (R220). -/
theorem drainTriggered_iff (interrupt interruptb : Byte) : drainTriggered interrupt interruptb = true ↔
    interrupt.toNat / 64 % 2 = 1 ∨ interrupt.toNat / 16 % 2 = 1 ∨ interruptb.toNat % 2 = 1 := by
  have hactivity : iActivity interrupt = true ↔ interrupt.toNat / 64 % 2 = 1 := getLsbD_iff interrupt 6
  have hcrc : iCrcChk interrupt = true ↔ interrupt.toNat / 16 % 2 = 1 := getLsbD_iff interrupt 4
  have hsent : iGcrcSent interruptb = true ↔ interruptb.toNat % 2 = 1 := by
    rw [iGcrcSent, getLsbD_iff, Nat.pow_zero, Nat.div_one]
  rw [drainTriggered, Bool.or_eq_true, Bool.or_eq_true, hactivity, hcrc, hsent, or_assoc]

/-- The loop is followed past the frames it finds: each takes at least one of the bytes listed (R234, log 4). -/
theorem drain_patience {s : State} {frames : List RxFrame} {more : List Byte}
    (hp : s.chipIn.pending = frames.flatMap RxFrame.chip ++ more) :
    ∃ k, Config.drainPatience + (s.chipIn.pending.length + 1) = k + 1 + frames.length := by
  have hlen : frames.length ≤ (frames.flatMap RxFrame.chip).length := by
    clear hp
    induction frames with
    | nil => exact Nat.le_refl 0
    | cons f fs ih =>
      simp only [List.flatMap_cons, List.length_append, List.length_cons, chip_eq]
      omega
  refine ⟨Config.drainPatience + (s.chipIn.pending.length - frames.length), ?_⟩
  rw [hp, List.length_append]
  omega

/-- Whatever a drain finds, it changes only what a drain may change (R222 to R233). -/
theorem drain_drainFrame {k : Nat} {s t : State} (h : drain k (passed s.begin.sampleIntN) = .ok t) :
    DrainFrame s (t.respond 0#2 0#32) := by
  obtain ⟨hmeas, hexp, hid, hmode, hbuf, -, hlines, hpos, hheld, hlast, hinbox, hport, hmillis, -, hhold⟩ := drain_fields h
  unfold DrainFrame
  apply State.ext <;> simp [hmeas, hexp, hid, hmode, hbuf, hlines, hpos, hheld, hlast, hinbox, hport, hmillis, hhold]

section
variable {s : State} {i ia ib : Byte} {tx : List Byte} {frames : List RxFrame} {ending rest : List Byte}
  (h : DrainPoll s i ia ib tx frames ending rest)
include h

/-- The first bytes the chip returns (R220, R256). -/
theorem drainPoll_chipBytes :
    s.chipByte 0 = i ∧ s.chipByte 1 = ia ∧ s.chipByte 2 = ib ∧ passHead ia (s.chipByte 3) = passHead ia (tx.headD 0#8) := by
  obtain ⟨-, -, -, -, hp, -, htx, -, -⟩ := h
  refine ⟨chipByte_of_pending (by simp [hp]), chipByte_of_pending (by simp [hp]), chipByte_of_pending (by simp [hp]), ?_⟩
  cases tx with
  | nil =>
    have hsent : ia.toNat / 4 % 2 ≠ 1 := by simp at htx; omega
    simp [passHead, hsent]
  | cons b bs => rw [chipByte_of_pending (b := b) (by simp [hp]), List.headD_cons]

theorem drainPoll_sop : ∀ f ∈ frames, f.sop = true := by
  obtain ⟨-, -, -, -, -, -, -, -, hsop⟩ := h
  exact hsop

/-- What a POLL does before its drain (R220, R221, R256). -/
theorem drainPoll_quiet : Quiet s.begin (passed s.begin.sampleIntN) (passHead ia (tx.headD 0#8)) := by
  obtain ⟨-, h1, -, hhead⟩ := drainPoll_chipBytes h
  have hquiet := passed_quiet s
  rwa [h1, hhead] at hquiet

/-- A drain trigger without a hard reset leads to the drain (R220). -/
theorem pollBody_drains : pollBody s.begin = drainRx (passed s.begin.sampleIntN) := by
  obtain ⟨h0, h1, h2, -⟩ := drainPoll_chipBytes h
  obtain ⟨hattach, hlow, -, -, -, hreset, -, htrigger, -⟩ := h
  have e0 : s.begin.sampleIntN.readByte = i := h0
  have e1 : (s.begin.sampleIntN.regRead regInterrupt 1).readByte = ia := h1
  have e2 : ((s.begin.sampleIntN.regRead regInterrupt 1).regRead regInterrupta 1).readByte = ib := h2
  have hnoReset : ¬ iHardRst ia = true := by
    rw [iHardRst, getLsbD_iff]
    omega
  rw [pollBody_interrupt (s := s.begin) hattach hlow, handleInterrupts_eq, e0, e1, e2, if_neg hnoReset,
    if_pos ((drainTriggered_iff i ib).2 htrigger)]

/-- What the chip has left when the drain begins (R220, R256). -/
theorem passed_pending :
    (passed s.begin.sampleIntN).chipIn.pending = frames.flatMap RxFrame.chip ++ (ending ++ rest) := by
  obtain ⟨-, h1, -, -⟩ := drainPoll_chipBytes h
  obtain ⟨-, -, -, -, hp, -, htx, -, -⟩ := h
  have e1 : (s.begin.sampleIntN.regRead regInterrupt 1).readByte = ia := h1
  have hsent : (if iTxSent ia = true then 1 else 0) = tx.length := by
    simp only [htx, iTxSent, getLsbD_iff]
    split <;> omega
  rw [passed_chipIn, e1, hsent, pending_skip]
  simp [hp, ← List.drop_drop]

/-- The frames of a POLL's drain, after the start of its interrupt pass (R220, R222). -/
theorem poll_framesDrained :
    FramesDrained (passed s.begin.sampleIntN) (roundsDrained frames.length (passed s.begin.sampleIntN)) frames
      (ending ++ rest) := by
  have hbytes := passed_pending h
  obtain ⟨-, -, -, hq, -, -, -, -, hsop⟩ := h
  exact (drain_frames 0 hsop hbytes (by simpa using hq)).2

/-- A POLL's drain ends after its frames (R220, R222, R234). -/
theorem poll_drains {does errors : List Doing} (hend : DrainEnds ending does errors) :
    ∃ t acts, exec .poll s = .next t ∧ DrainFrame s t ∧ DrainEffect s t frames ∧ t.resp = some ⟨0#2, 0#32⟩ ∧
      t.chipIn.pending = rest ∧ Quiet (roundsDrained frames.length (passed s.begin.sampleIntN)) t acts ∧
      acts.filter Doing.isTransaction = does ∧ acts.filter Doing.isCondition = errors := by
  have hpoll := pollBody_drains h
  have hbytes := passed_pending h
  have hstart := drainPoll_quiet h
  have hframes := poll_framesDrained h
  obtain ⟨-, -, hs, hq, -, -, -, -, hsop⟩ := h
  obtain ⟨t, acts, hends, hquiet, hdoes, herrors, hrest⟩ := drain_ends hend hframes.pending
  obtain ⟨k, hk⟩ := drain_patience hbytes
  have hdrain : drain (k + 1 + frames.length) (passed s.begin.sampleIntN) = .ok t :=
    (drain_frames (k + 1) hsop hbytes (by simpa using hq)).1.trans (hends k)
  rw [drainRx, hk, hdrain] at hpoll
  have heffect := drainEffect_append (hstart.drainEffect hq)
    (drainEffect_append hframes.effect (hquiet.drainEffect (drainEffect_evq_le hframes.effect)))
  rw [List.append_nil] at heffect
  exact ⟨_, acts, execPoll_ok hpoll hs, drain_drainFrame hdrain, heffect, rfl, hrest, hquiet.respond 0#2 0#32, hdoes,
    herrors⟩

/-- A POLL's drain, whole: what its frames change, what it does, and what it records (R220 to R233). -/
theorem poll_followsFrames {does errors : List Doing} (hend : DrainEnds ending does errors) :
    ∃ t, exec .poll s = .next t ∧ DrainFrame s t ∧ DrainEffect s t frames ∧ t.resp = some ⟨0#2, 0#32⟩ ∧
      t.chipIn.pending = rest ∧
      transactions t.trace = (passHead ia (tx.headD 0#8)).filter Doing.isTransaction
        ++ frames.flatMap frameReads ++ does ∧
      ∃ before, conditions t.trace = before ++ errors ∧ before.filter Doing.isFramingError = badCrcs frames := by
  obtain ⟨t, acts, hexec, hframe, heffect, hresp, hrest, hquiet, hdoes, herrors⟩ := poll_drains h hend
  have hstart := drainPoll_quiet h
  have hframes := poll_framesDrained h
  refine ⟨t, hexec, hframe, heffect, hresp, hrest, ?_, _, herrors ▸ hquiet.conditions, ?_⟩
  · rw [hquiet.transactions, hdoes, hframes.transactions, hstart.transactions]
    rfl
  · have hframing := hframes.framing
    rw [framingErrors, framingErrors, hstart.conditions, List.filter_append, passHead_framing] at hframing
    exact hframing

end

/-- The framing error a drain ends with is one (R364). -/
theorem drainEnds_framing {ending : List Byte} {does errors : List Doing} (h : DrainEnds ending does errors) :
    errors.filter Doing.isFramingError = errors := by
  obtain ⟨_, -, -, -, rfl⟩ | ⟨_, _, _, _, -, -, -, -, rfl⟩ := h <;> rfl

/-- Settles O36: `poll_followsFrames`, where the framing errors are those of the frames and that of the end. -/
theorem drainFollowsFrames : Obligations.DrainFollowsFrames := by
  intro s i ia ib tx frames ending rest does errors h hend
  obtain ⟨t, hexec, hframe, heffect, hresp, hrest, htrans, before, hcond, hframing⟩ := poll_followsFrames h hend
  refine ⟨t, hexec, hframe, heffect, hresp, hrest, htrans, ?_⟩
  rw [hcond, List.filter_append, hframing, drainEnds_framing hend]
  rfl

/-- Settles O37: `poll_followsFrames` at this ending, whose NotSop is the last condition recorded. -/
theorem nonSopEndsDrain : Obligations.NonSopEndsDrain := by
  intro s i ia ib tx frames status1 token x y rest h hstatus htoken
  obtain ⟨t, hexec, hframe, heffect, hresp, hrest, htrans, before, hcond, -⟩ :=
    poll_followsFrames h (.inr ⟨status1, token, x, y, rfl, hstatus, htoken, rfl, rfl⟩)
  exact ⟨t, hexec, hframe, heffect, hresp, hrest, htrans, by rw [hcond, List.getLast?_concat]⟩

/-! ## A drain of one frame -/

/-- The slot after one frame: its first `4n + 4` bytes are the frame's, every other byte of the ring stands (R225). -/
theorem ringByte_of_drainEffect {s t : State} {f : RxFrame} (hf : f.sop = true) (h : DrainEffect s t [f]) :
    (∀ o, o < 4 * f.objects + 4 → t.ringByte s.rxIdx o = f.body.getD o 0#8) ∧
    ∀ k o, o < 64 → k ≠ s.rxIdx ∨ 4 * f.objects + 4 ≤ o → t.ringByte k o = s.ringByte k o := by
  obtain ⟨-, -, -, -, hring⟩ := h
  obtain ⟨-, -, hlen⟩ := (sop_iff f).1 hf
  have hobjects : f.objects < 8 := Nat.mod_lt _ (by decide)
  simp only [ringAfter, hlen] at hring
  refine ⟨fun o ho => ?_, fun k o ho hother => ?_⟩
  · rw [hring _ o (by omega), if_pos ⟨rfl, ho⟩]
  · rw [hring k o ho, if_neg]
    rintro ⟨hk, hlt⟩
    exact hother.elim (absurd hk) (Nat.not_le.2 hlt)

/-- A POLL whose drain finds one frame and then an empty FIFO (R220 to R232). -/
theorem poll_oneFrame {s : State} {i ia ib : Byte} {tx : List Byte} {f : RxFrame} {last : Byte} {rest : List Byte}
    (h : DrainPoll s i ia ib tx [f] [last] rest) (hlast : last.toNat / 32 % 2 = 1) :
    ∃ t, exec .poll s = .next t ∧ DrainFrame s t ∧ DrainEffect s t [f] ∧ t.resp = some ⟨0#2, 0#32⟩ ∧
      t.chipIn.pending = rest ∧ t.evq = s.evq ++ (frameEvents s f).take (6 - s.evq.length) ∧
      conditions t.trace = (if ia.toNat / 16 % 2 = 1 then [.raise .retryFail] else []) ++ frameConditions s f := by
  obtain ⟨t, acts, hexec, hframe, heffect, hresp, hrest, hquiet, -, herrors⟩ :=
    poll_drains h (.inl ⟨last, rfl, hlast, rfl, rfl⟩)
  have hstart := drainPoll_quiet h
  have hbytes : (passed s.begin.sampleIntN).chipIn.pending = f.chip ++ ([last] ++ rest) := by
    simpa using passed_pending h
  obtain ⟨-, -, -, hq, -, -, -, -, hsop⟩ := h
  have hf : f.sop = true := hsop f List.mem_cons_self
  have hq' : (passed s.begin.sampleIntN).evq.length ≤ 6 := by simpa using hq
  obtain ⟨-, hevq, hcond⟩ := frameDrained_verdict hf hbytes hq'
  rw [hstart.frameEvents, hstart.evq] at hevq
  rw [hstart.frameConditions, hstart.conditions, passHead_conditions] at hcond
  refine ⟨t, hexec, hframe, heffect, hresp, hrest, hquiet.evq.trans hevq, ?_⟩
  rw [hquiet.conditions, herrors, List.append_nil]
  exact hcond

/-- Settles O38: `poll_oneFrame`, where a discarded frame has no event. -/
theorem discardedFrame : Obligations.DiscardedFrame := by
  intro s i ia ib tx f last rest h hlast hacc
  obtain ⟨t, hexec, hframe, heffect, hresp, hrest, hevq, hcond⟩ := poll_oneFrame h hlast
  obtain ⟨hwritten, hkept⟩ := ringByte_of_drainEffect (drainPoll_sop h f List.mem_cons_self) heffect
  obtain ⟨ha, ht, -, hidx, -⟩ := heffect
  refine ⟨t, hexec, ?_, hrest, hwritten, hkept, ?_⟩
  · refine hframe.trans ?_
    simp only [List.filter_cons_of_neg (Bool.eq_false_iff.1 hacc), List.filter_nil] at ha ht hidx
    rw [ha, ht, hidx, hevq, hresp]
    simp [frameEvents, hacc]
  · rw [hcond, frameConditions, if_neg (Bool.eq_false_iff.1 hacc)]
    rcases Nat.mod_two_eq_zero_or_one (f.status0.toNat / 16) with hc | hc <;> simp [hc]

/-- Settles O39: `poll_oneFrame` at an accepted frame. -/
theorem acceptedFrame : Obligations.AcceptedFrame := by
  intro s i ia ib tx f last rest h hlast hacc
  obtain ⟨t, hexec, hframe, heffect, hresp, -, hevq, hcond⟩ := poll_oneFrame h hlast
  obtain ⟨hwritten, hkept⟩ := ringByte_of_drainEffect (drainPoll_sop h f List.mem_cons_self) heffect
  obtain ⟨ha, ht, -, hidx, -⟩ := heffect
  refine ⟨t, hexec, ?_, hwritten, hkept, ?_⟩
  · refine hframe.trans ?_
    simp only [List.filter_cons_of_pos hacc, List.filter_nil] at ha ht hidx
    rw [ha, ht, hidx, hevq, hresp]
    simp [frameEvents, hacc]
  · rw [hcond, frameConditions, if_pos hacc, frameEvents, if_pos hacc]

end Sys2Proof.Proofs
end

section
/-! Transmit path (44_transmit_path.md): the interrupt pass that answers a sent message, what SEND_MESSAGE and
SEND_HEADER_MESSAGE do, and what moves the message ID. -/

namespace Sys2Proof.Proofs

open Sys2Proof.Machine Sys2Proof.Statements

/-! ## The interrupt pass without a drain (R256) -/

/-- An interrupt pass that finds neither I_HARDRST nor a drain trigger ends before the drain (R220). -/
theorem pollBody_passes {s : State} (ha : s.attach ≠ .usb20) (hlow : s.intNLow = true)
    (hreset : (s.chipByte 1).toNat % 2 = 0)
    (htrigger : ¬ drainTriggered (s.chipByte 0) (s.chipByte 2) = true) :
    pollBody s.begin = .ok (passed s.begin.sampleIntN) := by
  have h0 : s.begin.sampleIntN.readByte = s.chipByte 0 := rfl
  have h1 : (s.begin.sampleIntN.regRead regInterrupt 1).readByte = s.chipByte 1 := rfl
  have h2 : ((s.begin.sampleIntN.regRead regInterrupt 1).regRead regInterrupta 1).readByte = s.chipByte 2 := rfl
  have hnoReset : ¬ iHardRst (s.chipByte 1) = true := by
    rw [iHardRst, getLsbD_iff]
    omega
  rw [pollBody_interrupt (s := s.begin) ha hlow, handleInterrupts_eq, h0, h1, h2, if_neg hnoReset, if_neg htrigger]

/-- Settles O35: the pass ends before the drain, and `passed_fields` and `passed_quiet` say what it leaves and does. -/
theorem interruptWithoutDrain : Obligations.InterruptWithoutDrain := by
  intro s ha hlow hreset hactivity hcrc hgood hs
  have hpoll := pollBody_passes ha hlow hreset (by rw [drainTriggered_iff]; omega)
  refine ⟨_, execPoll_ok hpoll hs, ?_, (passed_quiet s).doings⟩
  apply State.ext <;> simp

/-! ## The token stream and `tx_buf` (R122, R252) -/

/-- The stream of a stamped header, in the statements' numbers (R122, R164). -/
theorem txStream_stampId (header : Header) (id : BitVec 3) (payload : List Byte) :
    txStream (stampId header id) payload
      = streamBytes (header.toNat ||| id.toNat * 512) (header.toNat / 4096 % 8) payload := by
  have hpacksym : packsymFor (stampId header id) = packsymFor header := by
    rw [packsymFor, payloadLength_stampId, packsymFor]
  rw [txStream, hpacksym, packsymFor_eq, headerLow_eq, headerHigh_eq, stampId_toNat]
  rfl

/-- The payload operand in the statements' numbers (R105). -/
theorem payloadOperand_eq (header : Header) (port : Vector Byte 28) :
    payloadOperand header port = port.toList.take (4 * (header.toNat / 4096 % 8)) := by
  rw [payloadOperand, payloadLength_eq]

/-- A control message takes nothing from the payload port (R258). -/
theorem payloadOperand_createCtrl (type : BitVec 5) (rev : BitVec 2) (port : Vector Byte 28) :
    payloadOperand (createCtrl type rev) port = [] := by
  rw [payloadOperand, createCtrl_payloadLength, List.take_zero]

/-- A stream built from offset 0: its bytes stand there, and `tx_buf` beyond it as before (R252). -/
theorem txByte_writeList {s t : State} {stream : List Byte} (h : t.txBuf = s.txBuf.writeList 0 stream) (a : Nat) :
    (a < stream.length → t.txByte a = stream.getD a 0#8) ∧ (stream.length ≤ a → t.txByte a = s.txByte a) := by
  unfold State.txByte
  rw [h, Memory.read_writeList]
  refine ⟨fun hlt => ?_, fun hge => ?_⟩
  · rw [if_pos (by omega), Nat.sub_zero, List.getElem?_eq_getElem hlt]
    simp [hlt]
  · rw [if_neg (by omega)]

/-! ## SEND_MESSAGE and SEND_HEADER_MESSAGE -/

/-- Settles O43: `sendMessageBody_fields`, with the stream in numbers. -/
theorem sendMessageResult : Obligations.SendMessageResult := by
  refine ⟨fun header => decodeOfEncode (.sendMessage header), reservedRefused_of_row (by decide), fun header s hs => ?_⟩
  have hp := payloadOperand_length header s.payloadPort
  obtain ⟨-, -, -, -, -, -, -, -, hbuf, -, -, hdoings, -⟩ := sendMessageBody_fields header _ s.begin hp
  have hstream : txStream (stampId header s.nextMessageId) (payloadOperand header s.payloadPort)
      = streamBytes (header.toNat ||| s.nextMessageId.toNat * 512) (header.toNat / 4096 % 8)
          (s.payloadPort.toList.take (4 * (header.toNat / 4096 % 8))) := by
    rw [txStream_stampId, payloadOperand_eq]
  have hlength := length_txStream (stampId header s.nextMessageId) (payloadOperand header s.payloadPort)
  rw [hp, payloadLength_eq, hstream] at hlength
  have hexec := exec_of_body (i := .sendMessage header) (s := s) rfl hs
  have hbytes := txByte_writeList (s := s.begin) hbuf
  simp only [State.begin_fields, hstream, hlength] at hbytes hdoings
  refine ⟨hlength, _, hexec, ?_, hdoings, exec_busErrorsRecorded hexec, fun a => (hbytes a).1, fun a => (hbytes a).2⟩
  apply State.ext <;> simp [sendMessageBody_fields _ _ _ hp]

/-- SEND_HEADER_MESSAGE at a legal revision is SEND_MESSAGE of the control header (R258). -/
theorem exec_sendHeaderMessage (type : BitVec 5) {rev : BitVec 2} (s : State) (h : rev ≠ 0#2) :
    exec (.sendHeaderMessage type rev) s = exec (.sendMessage (createCtrl type rev)) s := by
  simp only [exec, execSendHeaderMessage, execSendMessage, if_pos ((revLegal_eq rev).2 h), payloadOperand_createCtrl]

/-- The ID bits of a control header are 0, so stamping it adds the ID (R161, R164). -/
theorem createCtrl_or_id (type : BitVec 5) {rev : BitVec 2} (id : BitVec 3) (h : rev ≠ 0#2) :
    (createCtrl type rev).toNat ||| id.toNat * 512 = type.toNat + 64 * (rev.toNat - 1) + 512 * id.toNat := by
  have ht := type.isLt
  have hr := rev.isLt
  have hlow : type.toNat + 64 * (rev.toNat - 1) < 2 ^ 9 := by omega
  rw [createCtrl_toNat_of_rev h, Nat.or_comm, Nat.mul_comm id.toNat, ← Nat.two_pow_add_eq_or_of_lt hlow, Nat.add_comm]

/-- Settles O44: `exec_sendHeaderMessage`, and SEND_MESSAGE's result at the control header. -/
theorem sendHeaderMessageResult : Obligations.SendHeaderMessageResult := by
  refine ⟨fun type rev => decodeOfEncode (.sendHeaderMessage type rev), reservedRefused_of_row (by decide),
    fun type rev s => ⟨answers_of_illegalOperand (i := .sendHeaderMessage type rev) s, exec_sendHeaderMessage type s,
      fun hrev hs => ?_⟩⟩
  obtain ⟨-, -, hsend⟩ := sendMessageResult
  obtain ⟨-, t, hexec, hframe, hdoings, -⟩ := hsend (createCtrl type rev) s hs
  have hcount : (createCtrl type rev).toNat / 4096 % 8 = 0 := by
    rw [← numDataObjs_toNat, createCtrl_eq_createData, numDataObjs_createData]
    rfl
  rw [hcount, createCtrl_or_id type _ hrev] at hdoings
  exact ⟨t, (exec_sendHeaderMessage type s hrev).trans hexec, hframe, hdoings⟩

/-! ## The message IDs of a run (R254) -/

/-- A write among the doings of a trace is a write transaction in it. -/
theorem mem_of_write_mem_doings {trace : List Act} {reg : Byte} {bytes : List Byte}
    (h : Doing.write reg bytes ∈ doings trace) : ∃ acked, Act.write reg bytes acked ∈ trace := by
  obtain ⟨act, hmem, hdoing⟩ := List.mem_filterMap.1 h
  cases act with
  | write reg' bytes' acked => cases hdoing; exact ⟨acked, hmem⟩
  | raise c => cases c <;> cases hdoing
  | read | pulse | intN | millis | delay => cases hdoing

/-- What a run's `k`-th message leaves: the counter one past `k`, and `k` in the header bytes of a FIFOS write, modulo 8
(R254, R164). -/
def SentAsMessage (k : Nat) (t : State) : Prop :=
  t.nextMessageId.toNat = (k + 1) % 8 ∧
  ∃ stream acked, Act.write 0x43#8 stream acked ∈ t.trace ∧ (stream.getD 6 0#8).toNat / 2 % 8 = k % 8

/-- The ID bits of the header bytes in a stream (R112, R122). -/
theorem streamBytes_id {h : Nat} (n : Nat) (payload : List Byte) (hh : h < 2 ^ 16) :
    ((streamBytes h n payload).getD 6 0#8).toNat / 2 % 8 = h / 512 % 8 := by
  show (BitVec.ofNat 8 (h / 256)).toNat / 2 % 8 = h / 512 % 8
  rw [BitVec.toNat_ofNat]
  omega

/-- Stamping a header whose ID bits are 0 gives it the ID (R164). -/
theorem stampId_id {header : Header} (id : BitVec 3) (h : header.toNat / 512 % 8 = 0) :
    (header.toNat ||| id.toNat * 512) / 512 % 8 = id.toNat := by
  have hid : messageId (stampId header id) = id := by
    have hzero : messageId header = 0#3 := BitVec.eq_of_toNat_eq ((messageId_toNat header).trans h)
    have hshifted : ∀ id : BitVec 3, BitVec.extractLsb' 9 3 (id.setWidth 16 <<< 9) = id := by decide
    rw [messageId, stampId, BitVec.extractLsb'_or, hshifted, ← messageId, hzero, BitVec.zero_or]
  rw [← stampId_toNat, ← messageId_toNat, hid]

/-- One SEND_MESSAGE of a run (R254). -/
theorem exec_sendMessage_sentAs {header : Header} {s : State} {k : Nat} (hs : s.sclHold = none)
    (hk : s.nextMessageId.toNat = k % 8) (hid : header.toNat / 512 % 8 = 0) :
    ∃ t, exec (.sendMessage header) s = .next t ∧ t.sclHold = none ∧ SentAsMessage k t := by
  obtain ⟨-, -, hsend⟩ := sendMessageResult
  obtain ⟨-, t, hexec, hframe, hdoings, -⟩ := hsend header s hs
  have hbits : header.toNat ||| s.nextMessageId.toNat * 512 < 2 ^ 16 :=
    stampId_toNat header s.nextMessageId ▸ (stampId header s.nextMessageId).isLt
  obtain ⟨acked, hwrite⟩ := mem_of_write_mem_doings (hdoings ▸ List.mem_cons_of_mem _ List.mem_cons_self)
  refine ⟨t, hexec, by rw [hframe]; exact hs, ?_, _, acked, hwrite, ?_⟩
  · rw [hframe, BitVec.toNat_add, hk]
    exact Nat.mod_add_mod k 8 1
  · rw [streamBytes_id _ _ hbits, stampId_id _ hid, hk]

/-- A run of SEND_MESSAGE from a state in which the counter stands at `j` (R254). -/
theorem sendAll_sentAs {hs : List Header} {s : State} {j : Nat} (hhold : s.sclHold = none)
    (hj : s.nextMessageId.toNat = j % 8) (hids : ∀ h ∈ hs, h.toNat / 512 % 8 = 0) :
    (sendAll hs s).length = hs.length ∧ ∀ k t, (sendAll hs s)[k]? = some t → SentAsMessage (j + k) t := by
  induction hs generalizing s j with
  | nil => exact ⟨rfl, fun k t h => by simp [sendAll] at h⟩
  | cons header hs ih =>
    obtain ⟨hfirst, hrest⟩ := List.forall_mem_cons.1 hids
    obtain ⟨u, hexec, hhold', hsent⟩ := exec_sendMessage_sentAs hhold hj hfirst
    have hrun : sendAll (header :: hs) s = u :: sendAll hs u := by simp only [sendAll, hexec]
    obtain ⟨hlength, hlater⟩ := ih (j := j + 1) hhold' hsent.1 hrest
    rw [hrun]
    refine ⟨congrArg (· + 1) hlength, fun k t h => ?_⟩
    cases k with
    | zero => cases h; exact hsent
    | succ k => rw [Nat.add_comm k 1, ← Nat.add_assoc]; exact hlater k t h

/-- Settles O45: INIT leaves the counter at 0 (R182), where the run of `sendAll_sentAs` begins. -/
theorem messageIdsCycle : Obligations.MessageIdsCycle := by
  intro s0 s hs hhold hexec hids
  have hinit := exec_of_body (i := .init) (s := s0) rfl hhold
  rw [hinit] at hexec
  cases hexec
  simpa [SentAsMessage] using sendAll_sentAs (j := 0) (by simpa using hhold) (by simp) hids

/-! ## What moves the counter (R260) -/

/-- POLL moves the counter only where it enters the retry wait, whose bring-up sets it to 0 (R182, R196). -/
theorem pollEnd_nextMessageId {s u : State} (h : PollEnd s u) :
    u.nextMessageId = s.nextMessageId ∨ (u.nextMessageId = 0#3 ∧ u.attach = .usbRetryWait) := by
  cases h with
  | timeout | hardReset => exact .inr (by simp)
  | drained _ hd =>
    obtain ⟨-, -, hid, -⟩ := drain_fields hd
    exact .inl (by simpa using hid)
  | idleUsb20 | flip | pdWait | idle | retry | pass => exact .inl (by simp)

theorem sendMessageBody_nextMessageId (header : Header) (payload : List Byte) (s : State) :
    ((sendMessageBody header payload s.begin).respond 0#2 0#32).nextMessageId = s.nextMessageId + 1#3 := by
  simp [sendMessageBody]

/-- SEND_MESSAGE and a legal SEND_HEADER_MESSAGE advance the counter (R254, R258). -/
theorem body_advances {i : Instr} {s u : State}
    (hi : (∃ h, i = .sendMessage h) ∨ (∃ type rev, rev ≠ 0#2 ∧ i = .sendHeaderMessage type rev))
    (h : body i s = .ok u) : u.nextMessageId = s.nextMessageId + 1#3 := by
  rcases hi with ⟨header, rfl⟩ | ⟨type, rev, hrev, rfl⟩
  · cases h
    exact sendMessageBody_nextMessageId ..
  · simp only [body, if_pos ((revLegal_eq rev).2 hrev)] at h
    cases h
    exact sendMessageBody_nextMessageId ..

theorem answered_nextMessageId {status : BitVec 2} {value : Word} {s u : State}
    (h : answered status value s = .ok u) : u.nextMessageId = s.nextMessageId := by
  cases h
  rfl

/-- A lone TX token moves the framer only (log 6). -/
theorem tokenBody_nextMessageId {b : Byte} {s u : State} (h : tokenBody b s = .ok u) :
    u.nextMessageId = s.nextMessageId := by
  unfold tokenBody at h
  split at h <;> cases h
  rfl

/-- No other instruction but INIT and POLL moves the counter (R260). -/
theorem body_keeps_nextMessageId {i : Instr} {s u : State} (hinit : i ≠ .init) (hsend : ∀ h, i ≠ .sendMessage h)
    (hheader : ∀ type rev, rev ≠ 0#2 → i ≠ .sendHeaderMessage type rev) (hpoll : i ≠ .poll) (h : body i s = .ok u) :
    u.nextMessageId = s.nextMessageId := by
  cases i with
  | init => exact absurd rfl hinit
  | poll => exact absurd rfl hpoll
  | sendMessage header => exact absurd rfl (hsend header)
  | sendHeaderMessage type rev =>
    by_cases hrev : rev = 0#2
    · subst hrev
      exact answered_nextMessageId h
    · exact absurd rfl (hheader type rev hrev)
  | startSink | getDeviceId => cases h; simp
  | popEvent =>
    simp only [body] at h
    split at h
    · exact answered_nextMessageId h
    · exact (answered_nextMessageId h).trans (by simp)
  | createCtrl | createData =>
    simp only [body] at h
    split at h <;> exact answered_nextMessageId h
  | tokSop1 | tokSop2 | tokPacksym | tokJamCrc | tokEop | tokTxoff | tokTxon => exact tokenBody_nextMessageId h
  | rxTokenSop low => cases h; simp
  | _ => exact answered_nextMessageId h

/-- Settles O46: the bodies' laws above; the clock takes nothing from the counter or the attach state. -/
theorem messageIdMoves : Obligations.MessageIdMoves := by
  intro i s t _ h
  obtain ⟨u, hu, ht⟩ := exec_next h
  have hid : t.nextMessageId = u.nextMessageId := by rw [ht]
  have hattach : t.attach = u.attach := by rw [ht]
  rw [hid, hattach]
  refine ⟨?_, fun hi => ?_, ?_, fun hinit hsend hheader hpoll => body_keeps_nextMessageId hinit hsend hheader hpoll hu⟩
  · rintro rfl
    cases hu
    simp
  · rw [body_advances hi hu, BitVec.toNat_add]
    rfl
  · rintro rfl
    obtain ⟨v, hv, rfl⟩ := body_poll hu
    simpa using pollEnd_nextMessageId hv

end Sys2Proof.Proofs
end

section
/-! The timer (45_timer.md): the expiry test, and where a started timer expires. -/

namespace Sys2Proof.Proofs

open Sys2Proof.Machine Sys2Proof.Statements

/-- An inactive timer does not read as expired (R283). -/
theorem timerExpired_inactive {s : State} (h : s.timerActive = false) : s.timerExpired = false := by
  simp [State.timerExpired, h]

/-- Settles O40: an inactive timer by `timerExpired_inactive` and `afterTimerCheck_inactive`; for an active one `Expired` is
the window, and the check is one sample of the counter. -/
theorem timerExpiryWindow : Obligations.TimerExpiryWindow := by
  refine fun s => ⟨fun h => ⟨timerExpired_inactive h, State.afterTimerCheck_inactive h⟩, fun h => ⟨?_, ?_⟩⟩
  · rw [s.timerExpired_iff, Expired, and_iff_right h]
  · rw [State.afterTimerCheck_active h]
    rfl

/-- The distance past the expiry `start + ms` is the distance past `start` less `ms`, modulo 2^32 (R281). -/
theorem distance_past_expiry (now start ms : Word) :
    (now.toNat + 2 ^ 32 - (start + ms).toNat) % 2 ^ 32 =
      ((now.toNat + 2 ^ 32 - start.toNat) % 2 ^ 32 + 2 ^ 32 - ms.toNat) % 2 ^ 32 := by
  have hstart := start.isLt
  have hms := ms.isLt
  rw [BitVec.toNat_add]
  omega

/-- A timer running to `start + ms` reads as expired exactly if the next sample's distance past `start`, less `ms`, lies
in the window, modulo 2^32 (R281, R283). -/
theorem timerExpired_iff_of_started {u : State} {start ms : Word} (hactive : u.timerActive = true)
    (hexp : u.timerExp = start + ms) :
    u.timerExpired = true ↔
      ((u.millisNow.toNat + 2 ^ 32 - start.toNat) % 2 ^ 32 + 2 ^ 32 - ms.toNat) % 2 ^ 32 < 2 ^ 27 := by
  rw [u.timerExpired_iff, Expired, and_iff_right hactive, hexp, distance_past_expiry]

/-- Settles O41: before `ms` the distance past the expiry wraps to at least 2^32 - `ms`, which is outside the window because
`ms` is below 2^31 (R288). -/
theorem startedTimerExpires : Obligations.StartedTimerExpires := by
  intro s u ms hms hactive hexp passed
  have hpast : u.timerExpired = true ↔ (passed + 2 ^ 32 - ms.toNat) % 2 ^ 32 < 2 ^ 27 :=
    timerExpired_iff_of_started (hactive.trans (by simp)) (hexp.trans (by simp))
  have hpassed : passed < 2 ^ 32 := Nat.mod_lt _ (by decide)
  clear_value passed
  rw [← Bool.not_eq_true, hpast]
  constructor
  · intro hreached hwindow
    omega
  · intro hshort
    omega

end Sys2Proof.Proofs
end

section
/-! The I2C master (47_i2c_master.md): its transactions on the bus, a byte that is not acknowledged, bus byte counts, a clock
held low for ever, and the bit layer. -/

namespace Sys2Proof.Proofs

open Sys2Proof.Machine Sys2Proof.Statements

/-! ## Transactions (R325, R326) -/

/-- A transaction on the idle bus opens with a START. -/
@[simp] theorem openingSym_idle : openingSym Lines.idle = .start := rfl

/-- Sent bytes leave SCL low and SDA released, for the acknowledge (R340). -/
theorem linesAfter_sent (bs : List Byte) : linesAfter ⟨.low, .release⟩ (bs.map (BusSym.sent · true)) = ⟨.low, .release⟩ := by
  induction bs with
  | nil => rfl
  | cons b bs ih => exact ih

/-- The bytes of a read, all but the last acknowledged by the master (R326). -/
theorem receivedSyms_concat (data : List Byte) (last : Byte) :
    receivedSyms (data ++ [last]) = data.map (BusSym.received · true) ++ [.received last false] := by
  induction data with
  | nil => rfl
  | cons b bs ih =>
    have hcons : receivedSyms (b :: (bs ++ [last])) = .received b true :: receivedSyms (bs ++ [last]) := by
      cases bs <;> rfl
    rw [List.cons_append, hcons, ih]
    rfl

/-- An acknowledged write without STOP puts no STOP on the bus and keeps SCL low (R325). -/
theorem regWriteEnding_noStop_acked {s : State} (reg : Byte) (v : List Byte) (h : AllAcked (v.length + 2) s) :
    (s.regWriteEnding false reg v).trace = s.trace ++ [.write reg v (v.length + 2)] ∧
    (s.regWriteEnding false reg v).wire
      = s.wire ++ openingSym s.lines :: .sent addrWrite true :: .sent reg true :: v.map (BusSym.sent · true) ∧
    (s.regWriteEnding false reg v).lines = ⟨.low, .release⟩ := by
  have hsent := sendBytes_all_acked (addrWrite :: reg :: v) s.ackIn h
  unfold State.regWriteEnding
  simp [hsent, BusSym.after, linesAfter_sent]

theorem regWrite_opens (s : State) (reg : Byte) (v : List Byte) :
    ∃ more, (s.regWrite reg v).wire = s.wire ++ openingSym s.lines :: more := ⟨_, rfl⟩

theorem regRead_opens (s : State) (reg : Byte) (n : Nat) :
    ∃ more, (s.regRead reg n).wire = s.wire ++ openingSym s.lines :: more := ⟨_, rfl⟩

/-- Settles O49: the acknowledged write with STOP and without; without it SCL stays low, so that the next transaction opens
with a repeated START. -/
theorem writeTransaction : Obligations.WriteTransaction := by
  intro s reg v endWithStop hidle hacked t
  cases endWithStop with
  | true =>
    obtain ⟨-, -, htrace, hwire⟩ := State.regWrite_acked reg v hacked
    have hlines : (s.regWrite reg v).lines = Lines.idle := by simp
    rw [hidle, openingSym_idle] at hwire
    refine ⟨hwire.trans ?_, htrace, fun _ => hlines, nofun, nofun⟩
    simp [addrWrite, i2cAddr]
  | false =>
    obtain ⟨htrace, hwire, hlines⟩ := regWriteEnding_noStop_acked reg v hacked
    rw [hidle, openingSym_idle] at hwire
    have hrestart : openingSym t.lines = .restart := congrArg openingSym hlines
    refine ⟨hwire.trans ?_, htrace, nofun, fun _ reg' v' => ?_, fun _ reg' n => ?_⟩
    · simp [addrWrite, i2cAddr]
    · rw [← hrestart]
      exact regWrite_opens t reg' v'
    · rw [← hrestart]
      exact regRead_opens t reg' n

/-- Settles O50: the acknowledged read, whose bytes are those the chip gives. -/
theorem readTransaction : Obligations.ReadTransaction := by
  intro s reg data last hidle hacked hdata t
  have hread : s.readData (data.length + 1) = data ++ [last] := hdata
  obtain ⟨-, htrace, hwire⟩ := State.regRead_acked reg (data.length + 1) hacked
  rw [hread] at htrace
  rw [hidle, openingSym_idle, hread, receivedSyms_concat] at hwire
  refine ⟨hread, hwire.trans ?_, htrace, by simp [t], by simp [t]⟩
  simp [addrWrite, addrRead, i2cAddr]

/-! ## A byte that is not acknowledged (R330) -/

/-- A list is its first `j` entries, the `j`-th and the rest. -/
theorem eq_take_getD_drop {bs : List Byte} {j : Nat} (hj : j < bs.length) :
    bs = bs.take j ++ bs.getD j 0#8 :: bs.drop (j + 1) := by
  have hget : bs.getD j 0#8 = bs[j] := by rw [List.getD_eq_getElem?_getD, List.getElem?_eq_getElem hj, Option.getD_some]
  rw [hget, List.getElem_cons_drop, List.take_append_drop]

/-- Bytes of which the `j`-th is the first not acknowledged (R330). -/
theorem sendBytes_nackAt {bs : List Byte} {j : Nat} {acks : Input Bool} (hj : j < bs.length)
    (h : Input.values Config.freeAck (j + 1) acks = List.replicate j true ++ [false]) :
    sendBytes bs acks
      = ⟨(bs.take j).map (BusSym.sent · true) ++ [.sent (bs.getD j 0#8) false], j, Input.skip (j + 1) acks⟩ := by
  have hlen : (bs.take j).length = j := List.length_take_of_le (Nat.le_of_lt hj)
  have hsent := sendBytes_nack (bs.take j) (bs.getD j 0#8) (bs.drop (j + 1)) acks (by rwa [hlen])
  rwa [← eq_take_getD_drop hj, hlen] at hsent

/-- A write abandoned at its `j`-th byte, as an equation of states (R330, log 13). -/
theorem regWrite_nackAt {s : State} {reg : Byte} {v : List Byte} {j : Nat} (hidle : s.lines = Lines.idle)
    (hj : j < v.length + 2) (h : NackAt j s) :
    s.regWrite reg v = { s with
      wire := s.wire ++ .start :: ((addrWrite :: reg :: v).take j).map (BusSym.sent · true)
        ++ [.sent ((addrWrite :: reg :: v).getD j 0#8) false, .stop]
      trace := s.trace ++ [.write reg v j, .raise (.transientBusError reg .write)]
      ackIn := Input.skip (j + 1) s.ackIn
      chipRegs := noteWrite reg (v.take (j - 2)) s.chipRegs } := by
  have hsent := sendBytes_nackAt (bs := addrWrite :: reg :: v) hj h
  have hpart : (j == v.length + 2) = false := beq_false_of_ne (Nat.ne_of_lt hj)
  apply State.ext <;> simp [State.regWrite, State.regWriteEnding, hsent, hpart, hidle]

/-- The symbols of a read up to its `j`-th sent byte, which is not acknowledged (R326, R330). -/
def readNackSyms (reg : Byte) : Nat → List BusSym
  | 0 => [.sent addrWrite false]
  | 1 => [.sent addrWrite true, .sent reg false]
  | _ => [.sent addrWrite true, .sent reg true, .restart, .sent addrRead false]

/-- A read whose `j`-th sent byte is the first not acknowledged sends nothing more (R330). -/
theorem sendRead_nackAt {reg : Byte} {j : Nat} {acks : Input Bool} (hj : j < 3)
    (h : Input.values Config.freeAck (j + 1) acks = List.replicate j true ++ [false]) :
    sendRead reg acks = ⟨readNackSyms reg j, j, Input.skip (j + 1) acks⟩ := by
  match j, hj with
  | 0, _ | 1, _ =>
    have hsent := sendBytes_nackAt (bs := [addrWrite, reg]) (by simp) h
    simp [sendRead, hsent, readNackSyms]
  | 2, _ =>
    rw [Input.values_add] at h
    obtain ⟨hfirst, hthird⟩ := List.append_inj h (by simp)
    have hsent := sendBytes_all_acked [addrWrite, reg] acks hfirst
    have hnack := sendBytes_nackAt (bs := [addrRead]) (j := 0) (acks := Input.skip 2 acks) (by simp) hthird
    simp [sendRead, hsent, hnack, readNackSyms, Input.skip_skip]

/-- A read abandoned at its `j`-th sent byte, as an equation of states: its draws are consumed all the same (R330, log 20). -/
theorem regRead_nackAt {s : State} {reg : Byte} {n j : Nat} (hidle : s.lines = Lines.idle) (hj : j < 3)
    (h : NackAt j s) :
    s.regRead reg n = { s with
      wire := s.wire ++ (.start :: readNackSyms reg j ++ [.stop])
      trace := s.trace ++ [.read reg (s.readData n) j, .raise (.transientBusError reg .read)]
      ackIn := Input.skip (j + 1) s.ackIn
      chipIn := Input.skip n s.chipIn } := by
  have hsent := sendRead_nackAt (reg := reg) hj h
  have hpart : (j == 3) = false := beq_false_of_ne (Nat.ne_of_lt hj)
  apply State.ext <;> simp [State.regRead, hsent, hpart, hidle]

/-- Of the bytes of a write only the last one acknowledged counts (log 13). -/
theorem noteWrite_of_getLast? {acked : List Byte} {b : Byte} (h : acked.getLast? = some b) (reg : Byte) (regs : Memory) :
    noteWrite reg acked regs = noteWrite reg [b] regs := by
  simp only [noteWrite, h, List.getLast?_singleton]

/-- A register that holds a value reads as the last byte acknowledged (R47, log 13). -/
theorem noteWrite_read_self {reg : Byte} (hreset : reg ≠ regReset) (hfifos : reg ≠ regFifos) {acked : List Byte}
    (hne : acked ≠ []) (regs : Memory) : (noteWrite reg acked regs).read reg.toNat = acked.getLast? := by
  rw [List.getLast?_eq_some_getLast hne, noteWrite_of_getLast? (List.getLast?_eq_some_getLast hne),
    noteWrite_read hreset hfifos, if_pos rfl]

/-- Settles O51: the abandoned transactions as equations of states, the record of the bytes acknowledged before, and the
trace laws of instructions and steps. -/
theorem nackAbandonsTransaction : Obligations.NackAbandonsTransaction := by
  refine ⟨fun s reg v j hidle hj h => ?_, fun s reg n j hidle hj h => ?_, fun _ _ _ => exec_busErrorsRecorded,
    fun _ _ => step_busErrorsRecorded⟩
  · have heq := regWrite_nackAt (reg := reg) hidle hj h
    have hregs : (s.regWrite reg v).chipRegs = noteWrite reg (v.take (j - 2)) s.chipRegs := by rw [heq]
    refine ⟨heq, fun hnone => ?_, fun hsome hreset hfifos => ?_, fun a ha hreset => ?_⟩
    · rw [hregs, Nat.sub_eq_zero_of_le hnone]
      rfl
    · rw [hregs]
      refine noteWrite_read_self hreset hfifos (List.ne_nil_of_length_pos ?_) _
      rw [List.length_take]
      omega
    · rw [hregs]
      exact noteWrite_read_ne hreset _ _ ha
  · rw [regRead_nackAt hidle hj h]
    match j, hj with
    | 0, _ | 1, _ | 2, _ => rfl

/-! ## Bus bytes (R327, R417) -/

/-- SEND_MESSAGE is an acknowledged write of one byte and one of the stream (R250). -/
theorem sendMessageBody_busBytes {header : Header} {payload : List Byte} {s : State}
    (hp : payload.length = payloadLength header) (h : AllAcked (16 + payloadLength header) s) :
    busBytes (sendMessageBody header payload s).wire = busBytes s.wire + (16 + payloadLength header) := by
  have hwire : (sendMessageBody header payload s).wire = ((s.regWrite regPower [vPowerAll]).regWrite regFifos
      (txStream (stampId header s.nextMessageId) payload)).wire := by rw [sendMessageBody_eq header payload s hp]
  have hstream : (txStream (stampId header s.nextMessageId) payload).length = 11 + payloadLength header := by
    simp [txStream, hp]
    omega
  have hsplit : 16 + payloadLength header = 3 + (11 + payloadLength header + 2) := by omega
  rw [hsplit] at h
  obtain ⟨-, hpower, hrest⟩ := State.regWrite1_acked regPower vPowerAll h
  rw [← hstream] at hrest
  rw [hwire, State.regWrite_busBytes _ _ hrest, hpower, hstream]
  omega

/-- The traffic of a step that completes is that of its body. -/
theorem exec_wire {i : Instr} {s t : State} (h : exec i s = .next t) : ∃ u, body i s = .ok u ∧ t.wire = u.wire := by
  obtain ⟨u, hu, ht⟩ := exec_next h
  exact ⟨u, hu, by rw [ht]⟩

/-- Settles O52: the counts of acknowledged transactions, added up over each command's. -/
theorem busByteCounts : Obligations.BusByteCounts := by
  refine ⟨fun _ => State.regWrite_busBytes, fun _ => State.regRead_busBytes,
    fun s t h ht => ?_, fun s t h ht => ?_, fun s t header h ht => ?_⟩ <;>
    obtain ⟨u, hu, hwire⟩ := exec_wire ht <;> cases hu <;> rw [hwire]
  · simpa [busBytes] using (chipBringup_acked (n := 0) (s := s.begin) h).2.1
  · simpa [busBytes, startSinkBody] using
      State.regWrite_busBytes (s := { s.begin with attach := .usb20 }) regSwitches0 [vSw0Meas .cc1] h
  · rw [← payloadLength_eq] at h ⊢
    simpa [busBytes] using sendMessageBody_busBytes (s := s.begin) (payloadOperand_length header s.payloadPort) h

/-! ## A clock held low for ever (R341, log 5) -/

/-- A state with another clock hold to come. -/
def withHold (x : Option Nat) (s : State) : State := { s with sclHold := x }

/-- A replacement that keeps `tx_buf` and the place in it replaces the clock hold only. -/
theorem hidden_eq_withHold {s : State} {b : Memory} {p : Nat} (hb : s.txBuf = b) (hp : s.txPos = p) (x : Option Nat) :
    s.hidden b p x = withHold x s := by
  rw [← hb, ← hp]
  rfl

/-- The same of a result that may be stuck. -/
theorem hiddenOr_eq_withHold {r : Except Fault State} {b : Memory} {p : Nat}
    (h : ∀ u, r = .ok u → u.txBuf = b ∧ u.txPos = p) (x : Option Nat) : hiddenOr b p x r = r.map (withHold x) := by
  cases r with
  | error f => rfl
  | ok u =>
    obtain ⟨hb, hp⟩ := h u rfl
    exact congrArg Except.ok (hidden_eq_withHold hb hp x)

/-- POLL's body does not ask for the clock hold. -/
theorem pollBody_withHold (x : Option Nat) (s : State) : pollBody (withHold x s) = (pollBody s).map (withHold x) :=
  (hidden_pollBody s s.txBuf s.txPos x).trans
    (hiddenOr_eq_withHold (fun _ hu => have ⟨hb, hp, _⟩ := (pollBody_ends hu).framer; ⟨hb, hp⟩) x)

theorem respondOk_map_withHold (x : Option Nat) (r : Except Fault State) :
    respondOk (r.map (withHold x)) = (respondOk r).map (withHold x) := by
  cases r <;> rfl

theorem sendMessageBody_withHold {header : Header} {payload : List Byte} (hp : payload.length = payloadLength header)
    (x : Option Nat) (s : State) :
    sendMessageBody header payload (withHold x s) = withHold x (sendMessageBody header payload s) := by
  rw [sendMessageBody_eq _ _ _ hp, sendMessageBody_eq _ _ _ hp]
  rfl

theorem deframe_withHold (x : Option Nat) (s : State) : (deframe (withHold x s)).2 = withHold x (deframe s).2 := by
  have hhidden := congrArg Prod.snd (hidden_deframe s s.txBuf s.txPos x)
  exact hhidden.trans (hidden_eq_withHold (by simp) (by simp) x)

theorem tokenBody_withHold (b : Byte) (x : Option Nat) (s : State) :
    tokenBody b (withHold x s) = (tokenBody b s).map (withHold x) := by
  have hpos : (withHold x s).txPos = s.txPos := rfl
  simp only [tokenBody, hpos]
  split <;> rfl

/-- No body asks for the clock hold: it matters at the end of the step only. -/
theorem body_withHold (i : Instr) (x : Option Nat) (s : State) : body i (withHold x s) = (body i s).map (withHold x) := by
  cases i with
  | poll =>
    calc respondOk (pollBody (withHold x s.begin))
      _ = respondOk ((pollBody s.begin).map (withHold x)) := by rw [pollBody_withHold]
      _ = _ := respondOk_map_withHold x _
  | sendMessage header =>
    exact congrArg (fun u : State => Except.ok (u.respond 0#2 0#32))
      (sendMessageBody_withHold (payloadOperand_length header s.payloadPort) x s.begin)
  | sendHeaderMessage type rev =>
    have hbody := sendMessageBody_withHold (payload := []) (createCtrl_payloadLength type rev).symm x s.begin
    simp only [body]
    split
    · exact congrArg (fun u : State => Except.ok (u.respond 0#2 0#32)) hbody
    · rfl
  | popEvent =>
    have hevq : (withHold x s).evq = s.evq := rfl
    simp only [body, hevq]
    cases s.evq <;> rfl
  | createCtrl type rev | createData type n rev =>
    simp only [body]
    split <;> rfl
  | tokSop1 | tokSop2 | tokPacksym len | tokJamCrc | tokEop | tokTxoff | tokTxon => exact tokenBody_withHold _ x s
  | rxTokenSop low => exact congrArg Except.ok (deframe_withHold x (s.begin.presentToken (0b111#3 ++ low)))
  | _ => rfl

/-- Settles O53: with the hold the body reaches the same state but for the hold (`body_withHold`), and `complete` weighs
its traffic against `k`. -/
theorem heldClockStalls : Obligations.HeldClockStalls := by
  intro i s t k hnone h
  obtain ⟨u, hu, -⟩ := exec_next h
  rw [exec_of_body hu hnone] at h
  cases h
  calc exec i (withHold (some k) s)
    _ = completeOr (withHold (some k) s) ((body i s).map (withHold (some k))) := by rw [exec_eq, body_withHold]
    _ = complete (withHold (some k) s) (withHold (some k) t) := by rw [hu]; rfl

/-! ## The bit layer (R322, R340, R341) -/

/-- The bits the master clocks are those of the byte's number, most significant first (R71). -/
theorem bitsMsbFirst_eq (b : Byte) : bitsMsbFirst b = msbFirst b := by
  have hbit : ∀ k, b.getLsbD k = (b.toNat / 2 ^ k % 2 == 1) := fun k => by
    rw [Bool.eq_iff_iff, getLsbD_iff, beq_iff_eq]
  simp only [bitsMsbFirst, hbit]
  rfl

/-- SDA reads the sender's bits, then low for ACK, whoever sends (R322, R340). -/
theorem byteWires_high (b : Byte) (ack : Bool) :
    (byteWires (.sent b ack)).map Wire.high = bitsMsbFirst b ++ [!ack] ∧
    (byteWires (.received b ack)).map Wire.high = bitsMsbFirst b ++ [!ack] := by
  have hsent : ∀ bit, Wire.high ⟨driveOf bit, .release⟩ = bit := by decide
  have hreceived : ∀ bit, Wire.high ⟨.release, driveOf bit⟩ = bit := by decide
  simp [byteWires, Function.comp_def, hsent, hreceived]

/-- After the phases of the target's hold, and the one before them, SCL reads high (R341). -/
theorem drop_sclRise (stretch : Nat) (sda : Wire) (p : Phase) (rest : List Phase) :
    (p :: sclRise stretch sda ++ rest).drop (stretch + 1) = ⟨.released, sda⟩ :: rest := by
  have hdrop : (sclRise stretch sda).drop stretch = [⟨.released, sda⟩] := List.drop_left' List.length_replicate
  have hlen : stretch ≤ (sclRise stretch sda).length := by simp [sclRise]
  rw [List.cons_append, List.drop_succ_cons, List.drop_append_of_le_length hlen, hdrop]
  rfl

/-- A rise between phases that are not stretched. -/
theorem filter_around_sclRise {p : Phase} {rest : List Phase} (hp : p.stretched = false)
    (hrest : ∀ q ∈ rest, q.stretched = false) (stretch : Nat) (sda : Wire) :
    (p :: sclRise stretch sda ++ rest).filter (fun q => !q.stretched) = p :: sclRise 0 sda ++ rest := by
  rw [List.filter_append, List.filter_cons_of_pos (by simp [hp]), sclRise_filter,
    List.filter_eq_self.2 fun q hq => by simp [hrest q hq]]

/-- A stretched phase of one lies in the rise. -/
theorem stretched_around_sclRise {p q : Phase} {rest : List Phase} (hp : p.stretched = false)
    (hrest : ∀ q ∈ rest, q.stretched = false) {stretch : Nat} {sda : Wire} (hq : q ∈ p :: sclRise stretch sda ++ rest)
    (hs : q.stretched = true) : q.scl = ⟨.release, .low⟩ := by
  simp only [List.cons_append, List.mem_cons, List.mem_append] at hq
  rcases hq with rfl | hq | hq
  · simp [hp] at hs
  · exact sclRise_stretched _ _ _ hq hs
  · simp [hrest q hq] at hs

/-- Without its stretched phases a symbol is the symbol without stretching (R341). -/
theorem phases_filter (stretch : Nat → Nat) (sym : BusSym) :
    (sym.phases stretch).filter (fun p => !p.stretched) = sym.phases (fun _ => 0) := by
  cases sym with
  | start => rfl
  | restart => exact filter_around_sclRise rfl (by decide) _ _
  | stop => exact filter_around_sclRise rfl (by decide) _ _
  | sent b ack => exact clocks_filter _ _
  | received b ack => exact clocks_filter _ _

/-- In a stretched phase the master has released SCL and the target holds it low (R341). -/
theorem phases_stretched (stretch : Nat → Nat) (sym : BusSym) (p : Phase) (hp : p ∈ sym.phases stretch)
    (hs : p.stretched = true) : p.scl = ⟨.release, .low⟩ := by
  cases sym with
  | start =>
    have hnone : ∀ q ∈ BusSym.start.phases stretch, q.stretched = false := by
      simp only [BusSym.phases]
      decide
    simp [hnone p hp] at hs
  | restart => exact stretched_around_sclRise rfl (by decide) hp hs
  | stop => exact stretched_around_sclRise rfl (by decide) hp hs
  | sent b ack => exact clocks_stretched _ _ _ hp hs
  | received b ack => exact clocks_stretched _ _ _ hp hs

/-- Settles O54: the samples of a run of clocks are the levels of SDA; the edges come once SCL reads high. -/
theorem bitLayer : Obligations.BitLayer := by
  refine fun stretch => ⟨fun b ack => ?_, rfl, ?_, ?_, fun sym => ⟨phases_filter _ _, phases_stretched _ _⟩⟩
  · obtain ⟨hsent, hreceived⟩ := byteWires_high b ack
    rw [bitsMsbFirst_eq] at hsent hreceived
    exact ⟨(sampledBits_clocks _ _).trans hsent, (sampledBits_clocks _ _).trans hreceived⟩
  · exact congrArg (List.map levels) (drop_sclRise _ _ _ _)
  · exact congrArg (List.map levels) (drop_sclRise _ _ _ _)

end Sys2Proof.Proofs
end

section
/-! Exceptions (60_exceptions.md): what a POLL does that finds a hard reset. -/

namespace Sys2Proof.Proofs

open Sys2Proof.Machine Sys2Proof.Statements

/-- With INT_N low and I_HARDRST set the pass ends in `enter_retry_wait()`, whatever the other interrupt bytes and the timer
say (R365, R220). -/
theorem pollBody_hardReset {s : State} (ha : s.attach ≠ .usb20) (hlow : s.intNLow = true)
    (hreset : (s.chipByte 1).toNat % 2 = 1) :
    pollBody s.begin = .ok (enterRetryWait (passedHardReset s.begin.sampleIntN)) := by
  have h1 : (s.begin.sampleIntN.regRead regInterrupt 1).readByte = s.chipByte 1 := rfl
  have hHardRst : iHardRst (s.chipByte 1) = true := by
    rw [iHardRst, getLsbD_iff]
    omega
  rw [pollBody_interrupt (s := s.begin) ha hlow, handleInterrupts_eq, h1, if_pos hHardRst]

/-- With I_HARDRST set the pass does its three reads and records ChipHardReset (R220, R365). -/
theorem passedHardReset_doings (s : State) : doings (passedHardReset s).trace = doings s.trace
    ++ [.read regInterrupt 1, .read regInterrupta 1, .read regInterruptb 1, .raise .chipHardReset] := by
  simp [passedHardReset]

/-- The three interrupt reads and the record of the hard reset take no delay. -/
theorem passedHardReset_delays (s : State) : delays (passedHardReset s).trace = delays s.trace := by
  simp [passedHardReset]

/-- Settles O32: `pollBody_hardReset`, and the bring-up of `enter_retry_wait()` after the three reads (R365, R196). -/
theorem pollHardReset : Obligations.PollHardReset := by
  intro s ha hlow hreset hs
  have hpoll := pollBody_hardReset ha hlow hreset
  refine ⟨_, execPoll_ok hpoll hs, ?_, ?_, ?_, respond_timerArmed _ _ (enterRetryWait_timerArmed _)⟩
  · apply State.ext <;> simp [passedHardReset]
  · simp only [State.respond_fields, enterRetryWait_fields, doings_append, chipBringup_does, passedHardReset_doings]
    rfl
  · simp only [State.respond_fields, enterRetryWait_fields]
    exact chipBringup_delaysAtLeast (passedHardReset_delays _) rfl

end Sys2Proof.Proofs
end
